-- ==== Sys2Proof/Word.lean ====
section
/-! DEFINITION. The word types of the block. Rule R9 (00_scope.md): bits are numbered from 0 at the least significant
bit and every value is unsigned; these are plain bit vectors, and no width varies. -/

namespace Sys2Proof

/-- A wire byte, a command identifier, a checksum (R6: both are 8 bits wide). -/
abbrev Byte := BitVec 8

/-- A command word or a response word of the port (R8: 16 bits each). -/
abbrev Word := BitVec 16

/-- The nine-bit registers (`dec_len`, `pkt_len`, `enc_len`, `enc_idx`), the argument field of a command word (R75) and
the data field of a response word (R80). -/
abbrev Nine := BitVec 9

end Sys2Proof
end

