-- ==== Sys2Proof/Config.lean ====
section
/-! DEFINITION. The implementation parameters of 00_scope.md rules R6 and R8, and the values the spec leaves free. -/

namespace Sys2Proof.Config

/-- `MAX_PAYLOAD`, the largest payload in bytes (R6). -/
abbrev maxPayload : Nat := 256

/-- `DEC_BUF_MAX`, the decoder buffer's capacity in bytes (R8). The spec leaves it open as a parameter with the value 259
for this hardware (92_eei_decisions.md D6, 93_implementation_defined.md I12); the decoder's operations therefore take the
capacity as an argument and the instruction passes this value. -/
abbrev decBufMax : Nat := 259

/-- The three byte arrays of 10_state.md. -/
inductive ArrayName where
  | decBuf
  | pktPayload
  | encPayload
deriving DecidableEq, Repr

/-- FREE VALUE (notes/assumptions/5.md). What a read at index `i` of an array answers when the array has no element `i`.
Under the block's invariants no operation makes such a read (R13, R115, R144); a corrupted length or index register could.
The spec states no value, so nothing constrains this one. -/
opaque beyondEnd (array : ArrayName) (i : Nat) : Byte

end Sys2Proof.Config
end

