-- ==== Sys2Proof/Syntax.lean ====
section
/-! DEFINITION. The operations of the block: one constructor of `Instr` per row of spec/opcode_table.json (30_encoding.md
rule R77), with its operands at the widths rule R76 gives them. Beside them stand the raw command word as its two fields
(rule R75), the three argument forms (rule R76), the three units (rule R1) and the pseudo-operations of rule R84. -/

namespace Sys2Proof

/-- An operation of the block. A byte operand is `arg[7:0]` of the command word, an index operand is `arg[8:0]`. -/
inductive Instr where
  /-- DEC_BYTE b (R100): feed one received wire byte to the decoder. -/
  | decByte (b : Byte)
  /-- DEC_RESET (R112): return the decoder to its idle state. -/
  | decReset
  /-- DEC_STATE (R113): read `dec_state`. -/
  | decState
  /-- DEC_LEN (R114): read `dec_len`. -/
  | decLen
  /-- ENC_BEGIN c (R141): start loading a packet with command identifier c. -/
  | encBegin (c : Byte)
  /-- ENC_PUSH b (R142): append one payload byte. -/
  | encPush (b : Byte)
  /-- ENC_GO (R143): end loading and start the wire sequence. -/
  | encGo
  /-- ENC_NEXT (R144): produce the next wire byte. -/
  | encNext
  /-- ENC_ABORT (R147): abandon the packet being loaded or sent. -/
  | encAbort
  /-- ENC_STATE (R148): read `enc_phase` and `enc_pend_valid`. -/
  | encState
  /-- ENC_LEN (R149): read `enc_len`. -/
  | encLen
  /-- CRC_SEED s (R174): load the accumulator. -/
  | crcSeed (s : Byte)
  /-- CRC_BYTE b (R175): fold one byte into the accumulator. -/
  | crcByte (b : Byte)
  /-- CRC_READ (R176): read the accumulator. -/
  | crcRead
  /-- PKT_CMD (R190): read the last packet's command identifier. -/
  | pktCmd
  /-- PKT_LEN (R191): read the last packet's payload length. -/
  | pktLen
  /-- PKT_BYTE i (R192): read payload byte i of the last packet. -/
  | pktByte (i : Nine)
  /-- ERR_EXP (R193): read the expected checksum of the last mismatch. -/
  | errExp
  /-- ERR_RCV (R194): read the received checksum of the last mismatch. -/
  | errRcv
deriving DecidableEq, Repr

/-- The argument forms of rule R76. -/
inductive Form where
  /-- B: a byte in `arg[7:0]`, `arg[8]` must be 0. -/
  | byte
  /-- I: a 9-bit unsigned index. -/
  | index
  /-- N: `arg` must be 0. -/
  | none
deriving DecidableEq, Repr

/-- The units of rule R1. The readout operations belong to the decoder (R77, column "unit"). -/
inductive Owner where
  | dec
  | enc
  | crc
deriving DecidableEq, Repr

/-- A command word as its two fields (R75), before any check: `op = w[15:9]`, `arg = w[8:0]`. -/
structure RawOp where
  op  : BitVec 7
  arg : Nine
deriving DecidableEq, Repr

/-- The pseudo-operations of rule R84 with a fixed expansion. (DRAIN is a loop of the host: `Sys2Proof.Machine.drain`.) -/
inductive Pseudo where
  /-- FEED b1 ... bn. -/
  | feed (bytes : List Byte)
  /-- LOAD c, [p0, ..., pn-1]; it requires n <= 256. -/
  | load (c : Byte) (payload : List Byte)
  /-- CRC b1 ... bn. -/
  | crc (bytes : List Byte)
deriving DecidableEq, Repr

end Sys2Proof
end

