-- ==== Sys2Proof/WellFormed.lean ====
section
/-! DEFINITION. Which raw command words and pseudo-operations are well formed: rules R76 to R78 and R84 of 30_encoding.md.
A term of `Instr` carries its operands at their exact widths, so it cannot be ill formed; the checks are on the two fields of
a command word as the host writes it, and on LOAD's length. -/

namespace Sys2Proof

/-- The argument form of each assigned operation code (R77); `none` for the reserved ones of R78 (a). -/
def formOfOp (op : BitVec 7) : Option Form :=
  match op.toNat with
  | 0x01 => some .byte
  | 0x02 => some .none
  | 0x03 => some .none
  | 0x04 => some .none
  | 0x08 => some .byte
  | 0x09 => some .byte
  | 0x0A => some .none
  | 0x0B => some .none
  | 0x0C => some .none
  | 0x0D => some .none
  | 0x0E => some .none
  | 0x10 => some .byte
  | 0x11 => some .byte
  | 0x12 => some .none
  | 0x18 => some .none
  | 0x19 => some .none
  | 0x1A => some .index
  | 0x1C => some .none
  | 0x1D => some .none
  | _ => none

/-- R76: the reserved argument bits of a form are zero. -/
def Form.argOk (f : Form) (arg : Nine) : Bool :=
  match f with
  | .byte  => !arg.getLsbD 8
  | .index => true
  | .none  => arg == 0#9

/-- R78: a command word is legal when its `op` is assigned and its reserved argument bits are 0. -/
def RawOp.wf (r : RawOp) : Bool :=
  match formOfOp r.op with
  | some f => f.argOk r.arg
  | none => false

/-- The two fields of an instruction's command word (R75 to R77), written from the table independently of the decoder. -/
def Instr.raw (i : Instr) : RawOp :=
  match i with
  | .decByte b  => ⟨0x01#7, b.setWidth 9⟩
  | .decReset   => ⟨0x02#7, 0#9⟩
  | .decState   => ⟨0x03#7, 0#9⟩
  | .decLen     => ⟨0x04#7, 0#9⟩
  | .encBegin c => ⟨0x08#7, c.setWidth 9⟩
  | .encPush b  => ⟨0x09#7, b.setWidth 9⟩
  | .encGo      => ⟨0x0A#7, 0#9⟩
  | .encNext    => ⟨0x0B#7, 0#9⟩
  | .encAbort   => ⟨0x0C#7, 0#9⟩
  | .encState   => ⟨0x0D#7, 0#9⟩
  | .encLen     => ⟨0x0E#7, 0#9⟩
  | .crcSeed s  => ⟨0x10#7, s.setWidth 9⟩
  | .crcByte b  => ⟨0x11#7, b.setWidth 9⟩
  | .crcRead    => ⟨0x12#7, 0#9⟩
  | .pktCmd     => ⟨0x18#7, 0#9⟩
  | .pktLen     => ⟨0x19#7, 0#9⟩
  | .pktByte i  => ⟨0x1A#7, i⟩
  | .errExp     => ⟨0x1C#7, 0#9⟩
  | .errRcv     => ⟨0x1D#7, 0#9⟩

/-- An instruction is well formed when its command word is legal; every term of `Instr` is (Laws/PerInstr.lean). -/
def Instr.wf (i : Instr) : Bool := i.raw.wf

/-- R84: LOAD requires n <= 256. FEED and CRC take any number of bytes. -/
def Pseudo.wf (p : Pseudo) : Bool :=
  match p with
  | .feed _ => true
  | .load _ payload => payload.length ≤ Config.maxPayload
  | .crc _ => true

/-- The unit that owns an operation (R77, column "unit"). -/
def Instr.owner (i : Instr) : Owner :=
  match i with
  | .decByte _ | .decReset | .decState | .decLen => .dec
  | .encBegin _ | .encPush _ | .encGo | .encNext | .encAbort | .encState | .encLen => .enc
  | .crcSeed _ | .crcByte _ | .crcRead => .crc
  | .pktCmd | .pktLen | .pktByte _ | .errExp | .errRcv => .dec

end Sys2Proof
end

