-- ==== Sys2Proof/Decode.lean ====
section
/-! DEFINITION. Decoding and encoding of command words: 30_encoding.md rules R75 to R78. Every command word is one whole
16-bit word (R54: it has no byte order), so the decoder is a total function of a `Word`; an illegal word is rejected by the
name of the clause of R78 it falls under. -/

namespace Sys2Proof

/-- Why a command word is illegal (R78). The machine answers ILLEGAL in both cases (R195). -/
inductive Illegal where
  /-- R78 (a): the operation code is not in the table of R77. -/
  | unassignedOp (op : BitVec 7)
  /-- R78 (b): the operation code is in the table and its reserved argument bits are not 0. -/
  | reservedArg (op : BitVec 7) (arg : Nine)
deriving DecidableEq, Repr

/-- `op`, bits [15:9] of a command word (R75). -/
def opField (w : Word) : BitVec 7 := w.extractLsb' 9 7

/-- `arg`, bits [8:0] of a command word (R75). -/
def argField (w : Word) : Nine := w.extractLsb' 0 9

/-- A B-form word (R76): `arg[8]` must be 0, the byte is `arg[7:0]`. -/
def byteForm (build : Byte → Instr) (op : BitVec 7) (arg : Nine) : Except Illegal Instr :=
  if arg.getLsbD 8 then .error (.reservedArg op arg) else .ok (build (arg.setWidth 8))

/-- An N-form word (R76): `arg` must be 0. -/
def noneForm (i : Instr) (op : BitVec 7) (arg : Nine) : Except Illegal Instr :=
  if arg = 0#9 then .ok i else .error (.reservedArg op arg)

/-- The operation an `op` and an `arg` select (R77), or the clause of R78 that makes them illegal. -/
def decodeFields (op : BitVec 7) (arg : Nine) : Except Illegal Instr :=
  match op with
  | 0x01#7 => byteForm .decByte op arg
  | 0x02#7 => noneForm .decReset op arg
  | 0x03#7 => noneForm .decState op arg
  | 0x04#7 => noneForm .decLen op arg
  | 0x08#7 => byteForm .encBegin op arg
  | 0x09#7 => byteForm .encPush op arg
  | 0x0A#7 => noneForm .encGo op arg
  | 0x0B#7 => noneForm .encNext op arg
  | 0x0C#7 => noneForm .encAbort op arg
  | 0x0D#7 => noneForm .encState op arg
  | 0x0E#7 => noneForm .encLen op arg
  | 0x10#7 => byteForm .crcSeed op arg
  | 0x11#7 => byteForm .crcByte op arg
  | 0x12#7 => noneForm .crcRead op arg
  | 0x18#7 => noneForm .pktCmd op arg
  | 0x19#7 => noneForm .pktLen op arg
  | 0x1A#7 => .ok (.pktByte arg)
  | 0x1C#7 => noneForm .errExp op arg
  | 0x1D#7 => noneForm .errRcv op arg
  | _ => .error (.unassignedOp op)

/-- Decode one command word. -/
def decode (w : Word) : Except Illegal Instr := decodeFields (opField w) (argField w)

/-- Build a command word, `(op << 9) | arg` (R77). -/
def commandWord (op : BitVec 7) (arg : Nine) : Word := op ++ arg

/-- The argument field of a byte operand: `arg[8]` is 0 (R76). -/
def byteArg (b : Byte) : Nine := 0#1 ++ b

/-- Encode one operation as its command word (R77). -/
def encode (i : Instr) : Word :=
  match i with
  | .decByte b  => commandWord 0x01#7 (byteArg b)
  | .decReset   => commandWord 0x02#7 0#9
  | .decState   => commandWord 0x03#7 0#9
  | .decLen     => commandWord 0x04#7 0#9
  | .encBegin c => commandWord 0x08#7 (byteArg c)
  | .encPush b  => commandWord 0x09#7 (byteArg b)
  | .encGo      => commandWord 0x0A#7 0#9
  | .encNext    => commandWord 0x0B#7 0#9
  | .encAbort   => commandWord 0x0C#7 0#9
  | .encState   => commandWord 0x0D#7 0#9
  | .encLen     => commandWord 0x0E#7 0#9
  | .crcSeed s  => commandWord 0x10#7 (byteArg s)
  | .crcByte b  => commandWord 0x11#7 (byteArg b)
  | .crcRead    => commandWord 0x12#7 0#9
  | .pktCmd     => commandWord 0x18#7 0#9
  | .pktLen     => commandWord 0x19#7 0#9
  | .pktByte i  => commandWord 0x1A#7 i
  | .errExp     => commandWord 0x1C#7 0#9
  | .errRcv     => commandWord 0x1D#7 0#9

/-- One row of the opcode map of R77. -/
structure OpcodeRow where
  mnemonic  : String
  form      : Form
  matchBits : Word
  mask      : Word
deriving DecidableEq, Repr

/-- A word selects the row where `(w & mask) == match` (R77). -/
def OpcodeRow.selects (r : OpcodeRow) (w : Word) : Bool := (w &&& r.mask) == r.matchBits

/-- The opcode map of R77, as the table of the spec prints it. -/
def opcodeRows : List OpcodeRow :=
  [ ⟨"DEC_BYTE",  .byte,  0x0200#16, 0xFF00#16⟩,
    ⟨"DEC_RESET", .none,  0x0400#16, 0xFFFF#16⟩,
    ⟨"DEC_STATE", .none,  0x0600#16, 0xFFFF#16⟩,
    ⟨"DEC_LEN",   .none,  0x0800#16, 0xFFFF#16⟩,
    ⟨"ENC_BEGIN", .byte,  0x1000#16, 0xFF00#16⟩,
    ⟨"ENC_PUSH",  .byte,  0x1200#16, 0xFF00#16⟩,
    ⟨"ENC_GO",    .none,  0x1400#16, 0xFFFF#16⟩,
    ⟨"ENC_NEXT",  .none,  0x1600#16, 0xFFFF#16⟩,
    ⟨"ENC_ABORT", .none,  0x1800#16, 0xFFFF#16⟩,
    ⟨"ENC_STATE", .none,  0x1A00#16, 0xFFFF#16⟩,
    ⟨"ENC_LEN",   .none,  0x1C00#16, 0xFFFF#16⟩,
    ⟨"CRC_SEED",  .byte,  0x2000#16, 0xFF00#16⟩,
    ⟨"CRC_BYTE",  .byte,  0x2200#16, 0xFF00#16⟩,
    ⟨"CRC_READ",  .none,  0x2400#16, 0xFFFF#16⟩,
    ⟨"PKT_CMD",   .none,  0x3000#16, 0xFFFF#16⟩,
    ⟨"PKT_LEN",   .none,  0x3200#16, 0xFFFF#16⟩,
    ⟨"PKT_BYTE",  .index, 0x3400#16, 0xFE00#16⟩,
    ⟨"ERR_EXP",   .none,  0x3800#16, 0xFFFF#16⟩,
    ⟨"ERR_RCV",   .none,  0x3A00#16, 0xFFFF#16⟩ ]

/-- The mnemonic of an operation, as R77 spells it. -/
def mnemonicOf (i : Instr) : String :=
  match i with
  | .decByte _  => "DEC_BYTE"
  | .decReset   => "DEC_RESET"
  | .decState   => "DEC_STATE"
  | .decLen     => "DEC_LEN"
  | .encBegin _ => "ENC_BEGIN"
  | .encPush _  => "ENC_PUSH"
  | .encGo      => "ENC_GO"
  | .encNext    => "ENC_NEXT"
  | .encAbort   => "ENC_ABORT"
  | .encState   => "ENC_STATE"
  | .encLen     => "ENC_LEN"
  | .crcSeed _  => "CRC_SEED"
  | .crcByte _  => "CRC_BYTE"
  | .crcRead    => "CRC_READ"
  | .pktCmd     => "PKT_CMD"
  | .pktLen     => "PKT_LEN"
  | .pktByte _  => "PKT_BYTE"
  | .errExp     => "ERR_EXP"
  | .errRcv     => "ERR_RCV"

/-- The instruction the decoder reads from an opcode-table word: bit 0 is the least significant bit of the one 16-bit
command word; bits at and above `nbits` are 0, and so are bits above 15, since a command word has 16 bits (R75). -/
def decodeTableWord (nbits w : Nat) : Option Instr :=
  match decode (BitVec.ofNat 16 (w % 2 ^ nbits)) with
  | .ok i => some i
  | .error _ => none

/-- The operations a pseudo-operation stands for, in order (R84). -/
def expandPseudo (p : Pseudo) : List Instr :=
  match p with
  | .feed bytes => bytes.map .decByte
  | .load c payload => .encBegin c :: (payload.map .encPush ++ [.encGo])
  | .crc bytes => .crcSeed 0x00#8 :: bytes.map .crcByte

end Sys2Proof
end

