-- ==== Sys2Proof/Machine/State.lean ====
section
/-! DEFINITION. The state of the block: every register of 10_state.md (rules R22 to R39), grouped by the unit that owns it
(R1, R20, R60), and the two sides of the command port (R11, R59, R80, R230). Plain data throughout. -/

namespace Sys2Proof.Machine

/-- An array of exactly `n` bytes (B5: `dec_buf`, `pkt_payload`, `enc_payload`), element 0 first. -/
structure Bytes (n : Nat) where
  cells : List Byte
  size  : cells.length = n
deriving DecidableEq, Repr

/-- Two arrays of one size are equal when their elements are. -/
theorem Bytes.ext_cells {n : Nat} {a b : Bytes n} (h : a.cells = b.cells) : a = b := by
  cases a; cases b; cases h; rfl

/-- The array of `n` zero bytes. -/
def Bytes.zeros (n : Nat) : Bytes n := ⟨List.replicate n 0#8, List.length_replicate⟩

/-- `dec_state`, 2 bits, all four values named (R22, D5). -/
inductive DecState where
  /-- 0: between frames; bytes other than DELIM are ignored. -/
  | idle
  /-- 1: inside a frame; bytes are collected into `dec_buf`. -/
  | inPacket
  /-- 2: the previous byte was ESCAPE. -/
  | inEscape
  /-- 3: never entered by any rule (R115). -/
  | invalid
deriving DecidableEq, Repr

/-- `enc_phase`, 3 bits, all eight values named (R32, D11). -/
inductive EncPhase where
  /-- 0: no packet loaded, or the previous sequence finished or was aborted. -/
  | idle
  /-- 1: ENC_BEGIN given; ENC_PUSH appends payload bytes. -/
  | loading
  /-- 2: the next ENC_NEXT emits the leading delimiter. -/
  | start
  /-- 3: the next item is the command byte. -/
  | cmd
  /-- 4: the next item is `enc_payload[enc_idx]`. -/
  | payload
  /-- 5: the next item is the checksum byte. -/
  | crc
  /-- 6 (END): the next ENC_NEXT emits the trailing delimiter. -/
  | ending
  /-- 7: never entered by any rule. -/
  | invalid
deriving DecidableEq, Repr

/-- The result codes of R81. The reserved codes 11 to 14 have no constructor: they are never produced (I10). -/
inductive ResultCode where
  | ok
  | notDone
  | checksumMismatch
  | tooMuchData
  | tooSmall
  | badState
  /-- END: no sequence in progress. -/
  | seqEnd
  | seqError
  | full
  | noData
  | range
  | illegal
deriving DecidableEq, Repr

/-- What `respond(code, data)` hands to the port (R10): a result code and nine bits of data. -/
structure Reply where
  code : ResultCode
  data : Nine
deriving DecidableEq, Repr

/-- The decoder's registers (R22 to R31). -/
structure DecUnit where
  /-- `dec_state` (R22). -/
  state       : DecState
  /-- `dec_buf`, 259 bytes (R23). -/
  buf         : Bytes Config.decBufMax
  /-- `dec_len`, 9 bits (R24). -/
  len         : Nine
  /-- `pkt_valid` (R25). -/
  pktValid    : Bool
  /-- `pkt_cmd` (R26). -/
  pktCmd      : Byte
  /-- `pkt_len`, 9 bits (R27). -/
  pktLen      : Nine
  /-- `pkt_payload`, 256 bytes (R28). -/
  pktPayload  : Bytes Config.maxPayload
  /-- `err_valid` (R29). -/
  errValid    : Bool
  /-- `err_expected` (R30). -/
  errExpected : Byte
  /-- `err_received` (R31). -/
  errReceived : Byte
deriving DecidableEq, Repr

/-- The encoder's registers (R32 to R38). -/
structure EncUnit where
  /-- `enc_phase` (R32). -/
  phase     : EncPhase
  /-- `enc_pend_valid` (R33). -/
  pendValid : Bool
  /-- `enc_pend` (R33). -/
  pend      : Byte
  /-- `enc_cmd` (R34). -/
  cmd       : Byte
  /-- `enc_len`, 9 bits (R35). -/
  len       : Nine
  /-- `enc_payload`, 256 bytes (R36). -/
  payload   : Bytes Config.maxPayload
  /-- `enc_idx`, 9 bits (R37). -/
  idx       : Nine
  /-- `enc_crc` (R38). -/
  crc       : Byte
deriving DecidableEq, Repr

/-- What the outside world does at the block's port (R11, R230): it issues one command word, or it asserts `rst`. -/
inductive PortEvent where
  | word (w : Word)
  | rst
deriving DecidableEq, Repr

/-- The machine. `dec`, `enc` and `crcAcc` are the block's registers. `pending` and `responses` are the model's own fields
for the two sides of the command port (notes/assumptions/1.md): the events the agents present, in the order in which the
port accepts them (R59), and the response words handed back so far, oldest first (R80). -/
structure State where
  dec       : DecUnit
  enc       : EncUnit
  /-- `crc_acc` (R39). -/
  crcAcc    : Byte
  pending   : List PortEvent
  responses : List Word
deriving DecidableEq, Repr

/-- The faults of the machine: none. R210: "The block raises no exceptions and takes no traps"; every abnormal event is a
result code. No constructor, so no step can answer a fault; that is exact, neither safe nor unsafe. -/
inductive Fault where
deriving DecidableEq, Repr

/-- The refusals of the machine. The block defines an effect for every command word (R195 for the illegal ones), so no
meaning refuses. -/
inductive Refusal where
  /-- Raised only by an arm of `exec` whose instruction has no meaning yet; no arm is such. Safe: the machine stops where
  the hardware would go on. -/
  | notModelled (mnemonic : String)
deriving DecidableEq, Repr

/-- The decoder's registers after `rst` (R230). `dec_buf`, `pkt_cmd`, `pkt_len`, `pkt_payload`, `err_expected` and
`err_received` have no reset value in the spec; zero is the model's choice (DESIGN CHOICE, notes/assumptions/2.md). -/
def DecUnit.reset : DecUnit :=
  { state := .idle, buf := Bytes.zeros _, len := 0#9,
    pktValid := false, pktCmd := 0#8, pktLen := 0#9, pktPayload := Bytes.zeros _,
    errValid := false, errExpected := 0#8, errReceived := 0#8 }

/-- The encoder's registers after `rst` (R230). `enc_pend`, `enc_cmd`, `enc_payload`, `enc_idx` and `enc_crc` have no reset
value in the spec; zero is the model's choice (DESIGN CHOICE, notes/assumptions/2.md). -/
def EncUnit.reset : EncUnit :=
  { phase := .idle, pendValid := false, pend := 0#8, cmd := 0#8, len := 0#9,
    payload := Bytes.zeros _, idx := 0#9, crc := 0#8 }

/-- The machine right after reset (R230), with nothing presented at its port and nothing answered. -/
def State.reset : State :=
  { dec := DecUnit.reset, enc := EncUnit.reset, crcAcc := 0x00#8, pending := [], responses := [] }

end Sys2Proof.Machine
end

