-- ==== Sys2Proof/Machine/Flags.lean ====
section
/-! DEFINITION. Result codes and register numbers as bits. The block has no flag register (R40): an operation's outcome is the
result code of its response word (R80, R81). -/

namespace Sys2Proof.Machine

/-- The 4-bit result codes of R81. -/
def codeBits (c : ResultCode) : BitVec 4 :=
  match c with
  | .ok => 0#4
  | .notDone => 1#4
  | .checksumMismatch => 2#4
  | .tooMuchData => 3#4
  | .tooSmall => 4#4
  | .badState => 5#4
  | .seqEnd => 6#4
  | .seqError => 7#4
  | .full => 8#4
  | .noData => 9#4
  | .range => 10#4
  | .illegal => 15#4

/-- The response word of R80: `code` in bits [15:12], zeros in [11:9], `data` in [8:0]. -/
def responseWord (r : Reply) : Word := codeBits r.code ++ (0#3 ++ r.data)

/-- The result code field of a response word (R80). -/
def responseCode (w : Word) : BitVec 4 := w.extractLsb' 12 4

/-- The data field of a response word (R80). -/
def responseData (w : Word) : Nine := w.extractLsb' 0 9

/-- The 2-bit encoding of `dec_state` (R22). -/
def decStateBits (st : DecState) : BitVec 2 :=
  match st with
  | .idle => 0#2
  | .inPacket => 1#2
  | .inEscape => 2#2
  | .invalid => 3#2

/-- The 3-bit encoding of `enc_phase` (R32). -/
def encPhaseBits (p : EncPhase) : BitVec 3 :=
  match p with
  | .idle => 0#3
  | .loading => 1#3
  | .start => 2#3
  | .cmd => 3#3
  | .payload => 4#3
  | .crc => 5#3
  | .ending => 6#3
  | .invalid => 7#3

/-- `{enc_pend_valid, enc_phase}`, four bits (R82, R148). -/
def encStateBits (pendValid : Bool) (p : EncPhase) : BitVec 4 := BitVec.ofBool pendValid ++ encPhaseBits p

end Sys2Proof.Machine
end

