-- ==== Sys2Proof/Machine/Operands.lean ====
section
/-! DEFINITION. Operand forms: zero extension into the data field (R9, R82) and the indexed reads and writes of the block's
three byte arrays (R10, R51). The forms of a command word's argument (R76) are taken apart in Sys2Proof/Decode.lean. -/

namespace Sys2Proof.Machine

/-- `zext_9` (R9). -/
def zext9 {w : Nat} (v : BitVec w) : Nine := v.setWidth 9

/-- `arr[i]` (R10). An index the array does not have reads a free value (notes/assumptions/5.md). -/
def readAt {n : Nat} (array : Config.ArrayName) (v : Bytes n) (i : Nat) : Byte :=
  (v.cells[i]?).getD (Config.beyondEnd array i)

/-- `arr[i] <- b` (R10). An index the array does not have writes nothing (notes/assumptions/6.md). -/
def writeAt {n : Nat} (v : Bytes n) (i : Nat) (b : Byte) : Bytes n :=
  ⟨v.cells.set i b, by rw [List.length_set]; exact v.size⟩

/-- `for j in 0 .. len(src)-1: arr[i + j] <- src[j]`, the copy loop of R110. The other elements keep what they held. -/
def writeFrom {n : Nat} (v : Bytes n) (i : Nat) (src : List Byte) : Bytes n :=
  match src with
  | [] => v
  | b :: rest => writeFrom (writeAt v i b) (i + 1) rest

end Sys2Proof.Machine
end

