-- ==== Sys2Proof/Machine/Ops.lean ====
section
/-! DEFINITION. The shared operations: named updates of State, `respond` (R10), running an operation on one unit (R20, R60),
the recovery of a framing error (R215), the illegal-word response (R195) and the reset of the registers (R230). The block
raises no exception (R210): what stands in the place of exception entry is `recoverIdle`, the one state write the spec gives
every framing error, and there is no return from it (R216). -/

namespace Sys2Proof.Machine

/-- Write the decoder's registers. -/
def State.setDec (s : State) (d : DecUnit) : State := { s with dec := d }

/-- Write the encoder's registers. -/
def State.setEnc (s : State) (e : EncUnit) : State := { s with enc := e }

/-- Write `crc_acc`. -/
def State.setCrcAcc (s : State) (c : Byte) : State := { s with crcAcc := c }

/-- Replace the events waiting at the port. -/
def State.setPending (s : State) (p : List PortEvent) : State := { s with pending := p }

/-- Hand a response word to the port (R10, R80). No register changes. -/
def State.respond (s : State) (r : Reply) : State := { s with responses := s.responses ++ [responseWord r] }

/-- Complete an operation of the decoder: it reads and writes only the decoder's registers (R60) and responds once (R57). -/
def onDec (f : DecUnit → DecUnit × Reply) (s : State) : Host.Outcome State Fault Refusal :=
  .next ((s.setDec (f s.dec).1).respond (f s.dec).2)

/-- Complete an operation of the encoder: it reads and writes only the encoder's registers (R60) and responds once (R57). -/
def onEnc (f : EncUnit → EncUnit × Reply) (s : State) : Host.Outcome State Fault Refusal :=
  .next ((s.setEnc (f s.enc).1).respond (f s.enc).2)

/-- Complete an operation of the CRC unit: it reads and writes only `crc_acc` (R60) and responds once (R57). -/
def onCrc (f : Byte → Byte × Reply) (s : State) : Host.Outcome State Fault Refusal :=
  .next ((s.setCrcAcc (f s.crcAcc).1).respond (f s.crcAcc).2)

/-- Complete a read-only operation (R58): it changes no register and responds once. -/
def onRead (f : State → Reply) (s : State) : Host.Outcome State Fault Refusal :=
  .next (s.respond (f s))

/-- `respond(OK, zext_9(v))`, a register read (R82). -/
def okReply {w : Nat} (v : BitVec w) : Reply := ⟨.ok, zext9 v⟩

/-- `respond(code, 0)` (R82: the data is 0 in every other case). -/
def plainReply (c : ResultCode) : Reply := ⟨c, 0#9⟩

/-- Recovery after a framing error (R215): `dec_state <- IDLE` and nothing else of the decoder's sequencing state (`dec_len`
is left unchanged, D22), with the error reported in the response (R210). -/
def recoverIdle (c : ResultCode) (d : DecUnit) : DecUnit × Reply :=
  ({ d with state := .idle }, plainReply c)

/-- An illegal command word (R195): `respond(ILLEGAL, 0)`, and no state of any unit changes. -/
def respondIllegal (s : State) : State := s.respond (plainReply .illegal)

/-- `rst` (R230): every register takes its reset value. The port is no register and stays. -/
def resetRegisters (s : State) : State :=
  { State.reset with pending := s.pending, responses := s.responses }

end Sys2Proof.Machine
end

