-- ==== Sys2Proof/Machine/CrcFamily.lean ====
section
/-! DEFINITION. The host operations of the checksum unit: 42_checksum.md, rules R174 to R176. -/

namespace Sys2Proof.Machine

/-- R174: `crc_acc <- v`. -/
def crcLoad (v : Byte) (_acc : Byte) : Byte × Reply := (v, plainReply .ok)

/-- R175: `crc_acc <- crc8_update(crc_acc, b)`; the data is the new accumulator. -/
def crcFold (b acc : Byte) : Byte × Reply := (crc8Update acc b, okReply (crc8Update acc b))

/-- CRC_SEED v (R174). -/
def execCrcSeed (v : Byte) (s : State) : Host.Outcome State Fault Refusal :=
  onCrc (crcLoad v) s

/-- CRC_BYTE b (R175). -/
def execCrcByte (b : Byte) (s : State) : Host.Outcome State Fault Refusal :=
  onCrc (crcFold b) s

/-- CRC_READ (R176). -/
def execCrcRead (s : State) : Host.Outcome State Fault Refusal :=
  onRead (fun s => okReply s.crcAcc) s

end Sys2Proof.Machine
end

