-- ==== Sys2Proof/Machine/DecFamily.lean ====
section
/-! DEFINITION. The frame decoder: 40_decoder.md, rules R100 to R114. The decoder's capacity DEC_BUF_MAX is the argument `cap`
of the unit's operations (R8: a parameter, 259 for this hardware); it means something from 3 up to the buffer's 259 bytes. -/

namespace Sys2Proof.Machine

/-- `dec_buf[dec_len] <- v; dec_len <- dec_len + 1`, the append of R105 and R106. -/
def decAppend (v : Byte) (d : DecUnit) : DecUnit :=
  { d with buf := writeAt d.buf d.len.toNat v, len := d.len + 1#9 }

/-- R101, DEC_BYTE in IDLE: only a delimiter starts a frame, every other byte is ignored. -/
def decIdle (b : Byte) (d : DecUnit) : DecUnit × Reply :=
  if b = DELIM then ({ d with len := 0#9, state := .inPacket }, plainReply .notDone)
  else (d, plainReply .notDone)

/-- `exp` of R110: the checksum of `dec_buf[0 .. dec_len-2]`. -/
def decExpected (d : DecUnit) : Byte := crc8 (d.buf.cells.take (d.len.toNat - 1)) CRC_INIT

/-- `rcv` of R110: `dec_buf[dec_len-1]`. -/
def decReceived (d : DecUnit) : Byte := readAt .decBuf d.buf (d.len.toNat - 1)

/-- R110, the packet hand-off of a valid completion: the packet registers take the frame's content, all together (R57). -/
def decAccept (d : DecUnit) : DecUnit × Reply :=
  ({ d with
      pktCmd := readAt .decBuf d.buf 0
      pktLen := d.len - 2#9
      pktPayload := writeFrom d.pktPayload 0 ((d.buf.cells.take (d.len.toNat - 1)).drop 1)
      pktValid := true
      state := .idle }, okReply (d.len - 2#9))

/-- R111, a checksum mismatch: both values are captured and the decoder recovers. -/
def decMismatch (d : DecUnit) : DecUnit × Reply :=
  recoverIdle .checksumMismatch
    { d with errExpected := decExpected d, errReceived := decReceived d, errValid := true }

/-- R104, a delimiter in IN_PACKET: completion by `dec_len`, in the order R108, R109, R110, R111. -/
def decComplete (d : DecUnit) : DecUnit × Reply :=
  if d.len = 0#9 then (d, plainReply .notDone)
  else if d.len = 1#9 then recoverIdle .tooSmall d
  else if decExpected d = decReceived d then decAccept d
  else decMismatch d

/-- DEC_BYTE in IN_PACKET: the capacity check R102 comes before the byte is classified, then R103, R104, R105. -/
def decInPacket (cap : Nat) (b : Byte) (d : DecUnit) : DecUnit × Reply :=
  if cap ≤ d.len.toNat then recoverIdle .tooMuchData d
  else if b = ESCAPE then ({ d with state := .inEscape }, plainReply .notDone)
  else if b = DELIM then decComplete d
  else (decAppend b d, plainReply .notDone)

/-- R106, DEC_BYTE in IN_ESCAPE: the byte is a literal, and no capacity check is made. -/
def decInEscape (b : Byte) (d : DecUnit) : DecUnit × Reply :=
  ({ decAppend (unescapeByte b) d with state := .inPacket }, plainReply .notDone)

/-- R107, DEC_BYTE in INVALID: the byte is discarded. -/
def decInvalid (d : DecUnit) : DecUnit × Reply := recoverIdle .badState d

/-- R100, DEC_BYTE: the rule is chosen by `dec_state`. -/
def decFeed (cap : Nat) (b : Byte) (d : DecUnit) : DecUnit × Reply :=
  match d.state with
  | .idle => decIdle b d
  | .inPacket => decInPacket cap b d
  | .inEscape => decInEscape b d
  | .invalid => decInvalid d

/-- DEC_BYTE b (R100). -/
def execDecByte (b : Byte) (s : State) : Host.Outcome State Fault Refusal :=
  onDec (decFeed Config.decBufMax b) s

/-- R112: `dec_state <- IDLE`, `dec_len <- 0`; the packet and capture registers are kept. -/
def decRestart (d : DecUnit) : DecUnit × Reply := ({ d with state := .idle, len := 0#9 }, plainReply .ok)

/-- DEC_RESET (R112). -/
def execDecReset (s : State) : Host.Outcome State Fault Refusal := onDec decRestart s

/-- DEC_STATE (R113). -/
def execDecState (s : State) : Host.Outcome State Fault Refusal :=
  onRead (fun s => okReply (decStateBits s.dec.state)) s

/-- DEC_LEN (R114). -/
def execDecLen (s : State) : Host.Outcome State Fault Refusal :=
  onRead (fun s => okReply s.dec.len) s

end Sys2Proof.Machine
end

