-- ==== Sys2Proof/Machine/EncFamily.lean ====
section
/-! DEFINITION. The frame encoder: 41_encoder.md, rules R140 to R149. -/

namespace Sys2Proof.Machine

/-- R141, ENC_BEGIN c. -/
def encStartLoad (c : Byte) (e : EncUnit) : EncUnit × Reply :=
  if e.phase = .idle then ({ e with cmd := c, len := 0#9, phase := .loading }, plainReply .ok)
  else (e, plainReply .seqError)

/-- R142, ENC_PUSH b: SEQ_ERROR comes before FULL (R213). -/
def encAppend (b : Byte) (e : EncUnit) : EncUnit × Reply :=
  if e.phase = .loading then
    if e.len.toNat = Config.maxPayload then (e, plainReply .full)
    else ({ e with payload := writeAt e.payload e.len.toNat b, len := e.len + 1#9 }, okReply (e.len + 1#9))
  else (e, plainReply .seqError)

/-- R143, ENC_GO. -/
def encStartSequence (e : EncUnit) : EncUnit × Reply :=
  if e.phase = .loading then
    ({ e with crc := CRC_INIT, idx := 0#9, pendValid := false, phase := .start }, plainReply .ok)
  else (e, plainReply .seqError)

/-- R146, `advance()`: move past the item just finished. The rule names three phases; in the others it does nothing. -/
def encAdvance (e : EncUnit) : EncUnit :=
  match e.phase with
  | .cmd => { e with idx := 0#9, phase := if e.len = 0#9 then .crc else .payload }
  | .payload => { e with idx := e.idx + 1#9, phase := if e.idx + 1#9 = e.len then .crc else .payload }
  | .crc => { e with phase := .ending }
  | .idle => e
  | .loading => e
  | .start => e
  | .ending => e
  | .invalid => e

/-- `emit b` (R10): `respond(OK, zext_9(b))`. -/
def encEmit (b : Byte) (e : EncUnit) : EncUnit × Reply := (e, okReply b)

/-- R145, `emit_escaped(v)`: the first byte of an escape pair goes out and the second is held, or the item goes out as it is
and is finished. -/
def encEmitEscaped (v : Byte) (e : EncUnit) : EncUnit × Reply :=
  if v = DELIM then encEmit ESCAPE { e with pend := ESC_DELIM, pendValid := true }
  else if v = ESCAPE then encEmit ESCAPE { e with pend := ESC_ESCAPE, pendValid := true }
  else encEmit v (encAdvance e)

/-- The second byte of an escape pair (R144). -/
def encEmitPending (e : EncUnit) : EncUnit × Reply :=
  encEmit e.pend (encAdvance { e with pendValid := false })

/-- Take an item into the running checksum and emit it (R144, phases CMD and PAYLOAD). -/
def encTake (v : Byte) (e : EncUnit) : EncUnit × Reply :=
  encEmitEscaped v { e with crc := crc8Update e.crc v }

/-- R144, phases START to END: the byte owed from an escape pair goes out first, otherwise the phase's own item. -/
def encOwedOr (item : EncUnit → EncUnit × Reply) (e : EncUnit) : EncUnit × Reply :=
  if e.pendValid then encEmitPending e else item e

/-- R144, ENC_NEXT. The three phases that produce no byte answer without one (R213 item 5). -/
def encProduce (e : EncUnit) : EncUnit × Reply :=
  match e.phase with
  | .idle => (e, plainReply .seqEnd)
  | .loading => (e, plainReply .seqError)
  | .invalid => ({ e with phase := .idle, pendValid := false }, plainReply .badState)
  | .start => encOwedOr (fun e => encEmit DELIM { e with phase := .cmd }) e
  | .cmd => encOwedOr (fun e => encTake e.cmd e) e
  | .payload => encOwedOr (fun e => encTake (readAt .encPayload e.payload e.idx.toNat) e) e
  | .crc => encOwedOr (fun e => encEmitEscaped e.crc e) e
  | .ending => encOwedOr (fun e => encEmit DELIM { e with phase := .idle }) e

/-- R147: back to IDLE from every phase, with no escape byte owed. -/
def encAbandon (e : EncUnit) : EncUnit × Reply := ({ e with phase := .idle, pendValid := false }, plainReply .ok)

/-- ENC_BEGIN c (R141). -/
def execEncBegin (c : Byte) (s : State) : Host.Outcome State Fault Refusal := onEnc (encStartLoad c) s

/-- ENC_PUSH b (R142). -/
def execEncPush (b : Byte) (s : State) : Host.Outcome State Fault Refusal := onEnc (encAppend b) s

/-- ENC_GO (R143). -/
def execEncGo (s : State) : Host.Outcome State Fault Refusal := onEnc encStartSequence s

/-- ENC_NEXT (R144). -/
def execEncNext (s : State) : Host.Outcome State Fault Refusal := onEnc encProduce s

/-- ENC_ABORT (R147). -/
def execEncAbort (s : State) : Host.Outcome State Fault Refusal := onEnc encAbandon s

/-- ENC_STATE (R148): data[3] = enc_pend_valid, data[2:0] = enc_phase. -/
def execEncState (s : State) : Host.Outcome State Fault Refusal :=
  onRead (fun s => okReply (encStateBits s.enc.pendValid s.enc.phase)) s

/-- ENC_LEN (R149). -/
def execEncLen (s : State) : Host.Outcome State Fault Refusal :=
  onRead (fun s => okReply s.enc.len) s

end Sys2Proof.Machine
end

