-- ==== Sys2Proof/Machine/ReadoutFamily.lean ====
section
/-! DEFINITION. Packet and diagnostic readout: 43_readout.md, rules R190 to R194. -/

namespace Sys2Proof.Machine

/-- The gate of R190 to R194 (D25): NO_DATA while the valid flag is 0. -/
def gated (valid : Bool) (r : Reply) : Reply := if valid then r else plainReply .noData

/-- PKT_CMD (R190). -/
def execPktCmd (s : State) : Host.Outcome State Fault Refusal :=
  onRead (fun s => gated s.dec.pktValid (okReply s.dec.pktCmd)) s

/-- PKT_LEN (R191). -/
def execPktLen (s : State) : Host.Outcome State Fault Refusal :=
  onRead (fun s => gated s.dec.pktValid (okReply s.dec.pktLen)) s

/-- R192's element read: RANGE for every index at or above `pkt_len`. -/
def payloadReply (i : Nine) (d : DecUnit) : Reply :=
  if d.pktLen.toNat ≤ i.toNat then plainReply .range
  else okReply (readAt .pktPayload d.pktPayload i.toNat)

/-- PKT_BYTE i (R192): NO_DATA comes before RANGE (R213). -/
def execPktByte (i : Nine) (s : State) : Host.Outcome State Fault Refusal :=
  onRead (fun s => gated s.dec.pktValid (payloadReply i s.dec)) s

/-- ERR_EXP (R193). -/
def execErrExp (s : State) : Host.Outcome State Fault Refusal :=
  onRead (fun s => gated s.dec.errValid (okReply s.dec.errExpected)) s

/-- ERR_RCV (R194). -/
def execErrRcv (s : State) : Host.Outcome State Fault Refusal :=
  onRead (fun s => gated s.dec.errValid (okReply s.dec.errReceived)) s

end Sys2Proof.Machine
end

