-- ==== Sys2Proof/Machine/Dispatch.lean ====
section
/-! DEFINITION. One arm per operation of the block (R77). -/

namespace Sys2Proof.Machine

def exec (i : Instr) (s : State) : Host.Outcome State Fault Refusal :=
  match i with
  | .decByte b => Sys2Proof.Machine.execDecByte b s
  | .decReset => Sys2Proof.Machine.execDecReset s
  | .decState => Sys2Proof.Machine.execDecState s
  | .decLen => Sys2Proof.Machine.execDecLen s
  | .encBegin c => Sys2Proof.Machine.execEncBegin c s
  | .encPush b => Sys2Proof.Machine.execEncPush b s
  | .encGo => Sys2Proof.Machine.execEncGo s
  | .encNext => Sys2Proof.Machine.execEncNext s
  | .encAbort => Sys2Proof.Machine.execEncAbort s
  | .encState => Sys2Proof.Machine.execEncState s
  | .encLen => Sys2Proof.Machine.execEncLen s
  | .crcSeed v => Sys2Proof.Machine.execCrcSeed v s
  | .crcByte b => Sys2Proof.Machine.execCrcByte b s
  | .crcRead => Sys2Proof.Machine.execCrcRead s
  | .pktCmd => Sys2Proof.Machine.execPktCmd s
  | .pktLen => Sys2Proof.Machine.execPktLen s
  | .pktByte k => Sys2Proof.Machine.execPktByte k s
  | .errExp => Sys2Proof.Machine.execErrExp s
  | .errRcv => Sys2Proof.Machine.execErrRcv s

end Sys2Proof.Machine
end

