-- ==== Sys2Proof/Machine/Port.lean ====
section
/-! DEFINITION. Accepting one event at the command port (R59, R195, R230). -/

namespace Sys2Proof.Machine

/-- A command word issued to the block: a legal word runs its operation, an illegal one is answered ILLEGAL before any
operation's own rule is consulted (R213 item 1). -/
def acceptWord (w : Word) (s : State) : Host.Outcome State Fault Refusal :=
  match decode w with
  | .ok i => exec i s
  | .error _ => .next (respondIllegal s)

/-- One event: a command word, or `rst`. -/
def acceptEvent (e : PortEvent) (s : State) : Host.Outcome State Fault Refusal :=
  match e with
  | .word w => acceptWord w s
  | .rst => .next (resetRegisters s)

/-- The block's whole behaviour at the port: it takes the oldest waiting event and completes it before the next one is taken
(R57); with no event waiting it changes nothing (R11: it has no steps of its own). -/
def acceptNext (s : State) : Host.Outcome State Fault Refusal :=
  match s.pending with
  | [] => .next s
  | e :: rest => acceptEvent e (s.setPending rest)

/-- Put a command word at the front of the port, so that it is the next one the block accepts. -/
def presentWord (w : Word) (s : State) : State := s.setPending (.word w :: s.pending)

/-- The command word an opcode-table word stands for: the bits at and above `nbits` are 0. -/
def tableWord (nbits w : Nat) : Word := BitVec.ofNat 16 (w % 2 ^ nbits)

end Sys2Proof.Machine
end

