-- ==== Sys2Proof/Machine/Step.lean ====
section
/-! DEFINITION. One step of the machine: one event accepted at the command port. The block fetches no instructions (R21); what
stands for a fetch is taking the oldest command word waiting at the port. -/

namespace Sys2Proof.Machine

/-- One step. -/
def step (s : State) : Host.Outcome State Fault Refusal := acceptNext s

/-- `s` with the command word placed where the next step takes its word from: the front of the port. -/
def State.withFetchWord (s : State) (nbits w : Nat) : State := presentWord (tableWord nbits w) s

end Sys2Proof.Machine
end

