-- ==== Sys2Proof/Machine/Asm.lean ====
section
/-! DEFINITION. The assembler syntax of 30_encoding.md rules R83 and R84: one line of text to the operation or pseudo-operation
it stands for, and back. Text is a list of characters. No operation of the block depends on it. -/

namespace Sys2Proof.Machine

/-- What a line of a listing stands for. -/
inductive AsmLine where
  /-- Nothing but blanks or a comment. -/
  | blank
  | op (i : Instr)
  | pseudo (p : Pseudo)
  /-- DRAIN, the host loop of R84. -/
  | drain
deriving DecidableEq, Repr

/-- Why a line is no line of the syntax. -/
inductive AsmError where
  | unknownMnemonic
  | operandCount
  | operandSyntax
  | operandRange
  | loadLength
deriving DecidableEq, Repr

/-- One hexadecimal digit, upper case. -/
def hexDigit (n : Nat) : Char :=
  if n < 10 then Char.ofNat (48 + n) else Char.ofNat (55 + n)

/-- `v` in hexadecimal with exactly `digits` digits. -/
def hexText (digits v : Nat) : List Char :=
  match digits with
  | 0 => []
  | d + 1 => hexText d (v / 16) ++ [hexDigit (v % 16)]

/-- An operand written in hexadecimal, `0xC0` (R83). -/
def operandText (digits v : Nat) : List Char := '0' :: 'x' :: hexText digits v

/-- The operand an operation is written with: none for the N form. -/
def instrOperand (i : Instr) : List Char :=
  match i with
  | .decByte b  => ' ' :: operandText 2 b.toNat
  | .encBegin c => ' ' :: operandText 2 c.toNat
  | .encPush b  => ' ' :: operandText 2 b.toNat
  | .crcSeed v  => ' ' :: operandText 2 v.toNat
  | .crcByte b  => ' ' :: operandText 2 b.toNat
  | .pktByte k  => ' ' :: operandText 3 k.toNat
  | .decReset   => []
  | .decState   => []
  | .decLen     => []
  | .encGo      => []
  | .encNext    => []
  | .encAbort   => []
  | .encState   => []
  | .encLen     => []
  | .crcRead    => []
  | .pktCmd     => []
  | .pktLen     => []
  | .errExp     => []
  | .errRcv     => []

/-- `MNEMONIC`, `MNEMONIC b` or `MNEMONIC i` (R83). -/
def asmText (i : Instr) : List Char := (mnemonicOf i).toList ++ instrOperand i

/-- A listing line: the command word in hexadecimal, the operation, and the response word after `->` (R83). -/
def listingText (i : Instr) (response : Word) : List Char :=
  hexText 4 (encode i).toNat ++ [' ', ' '] ++ asmText i ++ [' ', '-', '>', ' '] ++ hexText 4 response.toNat

/-- A hexadecimal digit's value, either case. -/
def hexValue (c : Char) : Option Nat :=
  if 48 ≤ c.toNat ∧ c.toNat ≤ 57 then some (c.toNat - 48)
  else if 65 ≤ c.toNat ∧ c.toNat ≤ 70 then some (c.toNat - 55)
  else if 97 ≤ c.toNat ∧ c.toNat ≤ 102 then some (c.toNat - 87)
  else none

/-- The value of a run of digits in a base, after the digits read so far. -/
def digitsValue (base : Nat) (acc : Nat) (cs : List Char) : Option Nat :=
  match cs with
  | [] => some acc
  | c :: rest =>
    match hexValue c with
    | some d => if d < base then digitsValue base (acc * base + d) rest else none
    | none => none

/-- An operand, hexadecimal (`0xC0`) or decimal (`3`), with at least one digit (R83). -/
def numberValue (cs : List Char) : Option Nat :=
  match cs with
  | [] => none
  | '0' :: 'x' :: [] => none
  | '0' :: 'x' :: digits => digitsValue 16 0 digits
  | digits => digitsValue 10 0 digits

/-- A byte operand. -/
def byteValue (cs : List Char) : Except AsmError Byte :=
  match numberValue cs with
  | some v => if v < 256 then .ok (BitVec.ofNat 8 v) else .error .operandRange
  | none => .error .operandSyntax

/-- A byte of a byte stream, two hexadecimal digits (R9, R83). -/
def streamByte (cs : List Char) : Except AsmError Byte :=
  match cs with
  | [a, b] =>
    match digitsValue 16 0 [a, b] with
    | some v => .ok (BitVec.ofNat 8 v)
    | none => .error .operandSyntax
  | _ => .error .operandSyntax

/-- Read every text of a list, or the first error. -/
def readAll (read : List Char → Except AsmError Byte) (texts : List (List Char)) : Except AsmError (List Byte) :=
  match texts with
  | [] => .ok []
  | t :: rest =>
    match read t with
    | .error e => .error e
    | .ok b =>
      match readAll read rest with
      | .error e => .error e
      | .ok bs => .ok (b :: bs)

/-- Split text at every `sep`; always at least one piece. -/
def splitAt (sep : Char) (cs : List Char) : List (List Char) :=
  match cs with
  | [] => [[]]
  | c :: rest =>
    match splitAt sep rest with
    | [] => [[c]]
    | piece :: pieces => if c = sep then [] :: piece :: pieces else (c :: piece) :: pieces

/-- The non-empty pieces between blanks. -/
def blankSplit (cs : List Char) : List (List Char) := (splitAt ' ' cs).filter (fun w => w ≠ [])

/-- `[p0, ..., pn-1]` with the blanks taken out: the texts between its commas, none for `[]` (R84). -/
def listTexts (cs : List Char) : Option (List (List Char)) :=
  match cs with
  | '[' :: rest =>
    if rest.getLast? = some ']' then
      if rest.dropLast = [] then some [] else some (splitAt ',' rest.dropLast)
    else none
  | _ => none

/-- `LOAD c, [p0, ..., pn-1]` (R84), the text after the mnemonic with the blanks taken out. -/
def readLoad (cs : List Char) : Except AsmError AsmLine :=
  match byteValue (cs.takeWhile (· ≠ ',')) with
  | .error e => .error e
  | .ok c =>
    match listTexts ((cs.dropWhile (· ≠ ',')).drop 1) with
    | none => .error .operandSyntax
    | some texts =>
      match readAll byteValue texts with
      | .error e => .error e
      | .ok payload => if (Pseudo.load c payload).wf then .ok (.pseudo (.load c payload)) else .error .loadLength

/-- An operation's operands by its form (R76, R83), put into its row's word. -/
def readOperand (r : OpcodeRow) (operands : List (List Char)) : Except AsmError AsmLine :=
  match r.form, operands with
  | .none, [] => fromWord r.matchBits
  | .byte, [t] => readNumber 256 t
  | .index, [t] => readNumber 512 t
  | .none, _ => .error .operandCount
  | .byte, _ => .error .operandCount
  | .index, _ => .error .operandCount
where
  /-- The operation of a word of the row. -/
  fromWord (w : Word) : Except AsmError AsmLine :=
    match decode w with
    | .ok i => .ok (.op i)
    | .error _ => .error .operandRange
  /-- An operand below `bound`, in the low bits of the row's word. -/
  readNumber (bound : Nat) (t : List Char) : Except AsmError AsmLine :=
    match numberValue t with
    | none => .error .operandSyntax
    | some v => if v < bound then fromWord (r.matchBits ||| BitVec.ofNat 16 v) else .error .operandRange

/-- The line of a mnemonic and its operand texts. -/
def readWords (m : List Char) (operands : List (List Char)) : Except AsmError AsmLine :=
  if m = "FEED".toList then
    match readAll streamByte operands with
    | .ok bs => .ok (.pseudo (.feed bs))
    | .error e => .error e
  else if m = "CRC".toList then
    match readAll byteValue operands with
    | .ok bs => .ok (.pseudo (.crc bs))
    | .error e => .error e
  else if m = "LOAD".toList then readLoad operands.flatten
  else if m = "DRAIN".toList then (if operands = [] then .ok .drain else .error .operandCount)
  else
    match opcodeRows.find? (fun r => r.mnemonic.toList = m) with
    | some r => readOperand r operands
    | none => .error .unknownMnemonic

/-- Read one line; a comment starts with `;` and runs to the end of the line (R83). -/
def readLine (line : List Char) : Except AsmError AsmLine :=
  match blankSplit (line.takeWhile (· ≠ ';')) with
  | [] => .ok .blank
  | m :: operands => readWords m operands

/-- The operations a line stands for (R83, R84); none for a blank line, and none for DRAIN, whose operations the host's loop
issues (`drain`). -/
def lineOps (l : AsmLine) : List Instr :=
  match l with
  | .blank => []
  | .op i => [i]
  | .pseudo p => expandPseudo p
  | .drain => []

end Sys2Proof.Machine
end

