-- ==== Sys2Proof/Machine/Session.lean ====
section
/-! DEFINITION. What an agent outside the block does with it: presenting operations in order, and the DRAIN loop of R84. These
are host sequences; the block does not see them (R21, R86). -/

namespace Sys2Proof.Machine

/-- The events of a sequence of operations, one command word each (R75). -/
def eventsOf (ops : List Instr) : List PortEvent := ops.map (fun i => .word (encode i))

/-- `s` with a sequence of operations, and nothing else, waiting at the port. -/
def State.offering (s : State) (ops : List Instr) : State := s.setPending (eventsOf ops)

/-- Present a sequence of operations to the block and let it complete every one. -/
def runOps (ops : List Instr) (s : State) : Host.Outcome State Fault Refusal :=
  Host.Core.run Sys2Proof.core ops.length (s.offering ops)

/-- The newest response word; all zeros when there is none. -/
def lastResponse (s : State) : Word := s.responses.getLastD 0#16

/-- What DRAIN hands to its caller: the data bytes of the OK responses in order, the response that ended the loop, and the
machine after it. -/
structure Drained where
  bytes : List Byte
  final : Word
  state : State
deriving DecidableEq, Repr

/-- DRAIN (R84): "issue ENC_NEXT until its code is not OK". `turns` bounds the ENC_NEXT operations the loop may issue; `none`
when they run out first. -/
def drain (turns : Nat) (s : State) : Option Drained :=
  match turns with
  | 0 => none
  | n + 1 =>
    match runOps [.encNext] s with
    | .next t =>
      if responseCode (lastResponse t) = codeBits .ok then
        match drain n t with
        | some r => some { r with bytes := (responseData (lastResponse t)).setWidth 8 :: r.bytes }
        | none => none
      else some ⟨[], lastResponse t, t⟩
    | .fault _ => none
    | .refused _ => none

/-- The DEC_BYTE operations of a byte stream, on the decoder alone, for any buffer capacity `cap`: the decoder after them and
its replies in order (FEED of R84, without the port). -/
def feedAll (cap : Nat) (bytes : List Byte) (d : DecUnit) : DecUnit × List Reply :=
  match bytes with
  | [] => (d, [])
  | b :: rest =>
    ((feedAll cap rest (decFeed cap b d).1).1, (decFeed cap b d).2 :: (feedAll cap rest (decFeed cap b d).1).2)

end Sys2Proof.Machine
end

