-- ==== Sys2Proof/Safety.lean ====
section
/-! DEFINITION. The terms in which claims about the block are stated: the invariants of rules R115 and R153, the bytes an
encoder sequence still owes (R150), the reset values the spec gives (R230), and which registers an agent can tell apart (D29,
93_implementation_defined.md I7 and I8). The machine uses none of these. -/

namespace Sys2Proof.Machine

/-- The decoder's invariants, R115 (a) to (d). -/
structure DecInv (d : DecUnit) : Prop where
  state_legal : d.state ≠ .invalid
  len_le : d.len.toNat ≤ 259
  escape_room : d.state = .inEscape → d.len.toNat ≤ 258
  pktLen_le : d.pktValid = true → d.pktLen.toNat ≤ 256

/-- The phases of a wire sequence in progress, START to END (R140). -/
def inSequence (p : EncPhase) : Bool :=
  match p with
  | .start => true
  | .cmd => true
  | .payload => true
  | .crc => true
  | .ending => true
  | .idle => false
  | .loading => false
  | .invalid => false

/-- The payload loaded into the encoder: `enc_payload[0 .. enc_len-1]` (R35, R36). -/
def loadedPayload (e : EncUnit) : List Byte := e.payload.cells.take e.len.toNat

/-- The items of the loaded packet that are not finished yet, the one in progress first (R140): the command, the payload bytes
from `enc_idx` on, the checksum. -/
def itemsLeft (e : EncUnit) : List Byte :=
  match e.phase with
  | .start => frameContent e.cmd (loadedPayload e)
  | .cmd => frameContent e.cmd (loadedPayload e)
  | .payload => (loadedPayload e).drop e.idx.toNat ++ [frameChecksum e.cmd (loadedPayload e)]
  | .crc => [frameChecksum e.cmd (loadedPayload e)]
  | .ending => []
  | .idle => []
  | .loading => []
  | .invalid => []

/-- The items already folded into `enc_crc` (R153): each one is folded in when its first wire byte is emitted. -/
def foldedItems (e : EncUnit) : List Byte :=
  match e.phase with
  | .cmd => if e.pendValid then [e.cmd] else []
  | .payload => e.cmd :: (loadedPayload e).take (e.idx.toNat + e.pendValid.toNat)
  | .crc => e.cmd :: loadedPayload e
  | .ending => e.cmd :: loadedPayload e
  | .start => []
  | .idle => []
  | .loading => []
  | .invalid => []

/-- The wire bytes the sequence in progress still owes, in order (R150). -/
def bytesOwed (e : EncUnit) : List Byte :=
  match e.phase with
  | .start => DELIM :: ((itemsLeft e).flatMap escaped ++ [DELIM])
  | .cmd => ((itemsLeft e).flatMap escaped).drop e.pendValid.toNat ++ [DELIM]
  | .payload => ((itemsLeft e).flatMap escaped).drop e.pendValid.toNat ++ [DELIM]
  | .crc => ((itemsLeft e).flatMap escaped).drop e.pendValid.toNat ++ [DELIM]
  | .ending => [DELIM]
  | .idle => []
  | .loading => []
  | .invalid => []

/-- The encoder's invariants: the phase is legal (R32), the counters keep their bounds (R13, R146), an owed escape byte belongs
to the item in progress (R145), and the running checksum covers exactly the items taken (R153). -/
structure EncInv (e : EncUnit) : Prop where
  phase_legal : e.phase ≠ .invalid
  len_le : e.len.toNat ≤ 256
  idx_lt : e.phase = .payload → e.idx.toNat < e.len.toNat
  idx_le : inSequence e.phase = true → e.idx.toNat ≤ e.len.toNat
  pend_phase : e.pendValid = true → e.phase = .cmd ∨ e.phase = .payload ∨ e.phase = .crc
  pend_item : e.pendValid = true → ∃ v, (itemsLeft e).head? = some v ∧ escaped v = [ESCAPE, e.pend]
  crc_folded : inSequence e.phase = true → e.crc = crc8 (foldedItems e) CRC_INIT

/-- The invariants of the block. -/
structure Inv (s : State) : Prop where
  dec : DecInv s.dec
  enc : EncInv s.enc

/-- Every register the spec gives a reset value holds it (R230); the others may hold anything (I7). -/
structure SpecReset (s : State) : Prop where
  dec_state : s.dec.state = .idle
  dec_len : s.dec.len = 0#9
  pkt_valid : s.dec.pktValid = false
  err_valid : s.dec.errValid = false
  enc_phase : s.enc.phase = .idle
  enc_pend_valid : s.enc.pendValid = false
  enc_len : s.enc.len = 0#9
  crc_acc : s.crcAcc = 0x00#8

/-- Two decoders no agent can tell apart: they agree except where a register is gated, stale or dead (R23, R26 to R31). -/
structure DecSame (d d' : DecUnit) : Prop where
  state : d.state = d'.state
  len : d.len = d'.len
  buf : d.state = .inPacket ∨ d.state = .inEscape →
    d.buf.cells.take d.len.toNat = d'.buf.cells.take d.len.toNat
  pktValid : d.pktValid = d'.pktValid
  pkt : d.pktValid = true → d.pktCmd = d'.pktCmd ∧ d.pktLen = d'.pktLen ∧
    d.pktPayload.cells.take d.pktLen.toNat = d'.pktPayload.cells.take d.pktLen.toNat
  errValid : d.errValid = d'.errValid
  err : d.errValid = true → d.errExpected = d'.errExpected ∧ d.errReceived = d'.errReceived

/-- Two encoders no agent can tell apart (R33 to R38). -/
structure EncSame (e e' : EncUnit) : Prop where
  phase : e.phase = e'.phase
  pendValid : e.pendValid = e'.pendValid
  len : e.len = e'.len
  pend : inSequence e.phase = true → e.pendValid = true → e.pend = e'.pend
  loaded : e.phase = .loading ∨ inSequence e.phase = true →
    e.cmd = e'.cmd ∧ e.payload.cells.take e.len.toNat = e'.payload.cells.take e.len.toNat
  idx : e.phase = .payload → e.idx = e'.idx
  crc : inSequence e.phase = true → e.crc = e'.crc

/-- Two machines no agent can tell apart: the same events wait at their ports, the same responses were handed back, and no
operation can read a register in which they differ. -/
structure Same (s t : State) : Prop where
  dec : DecSame s.dec t.dec
  enc : EncSame s.enc t.enc
  crcAcc : s.crcAcc = t.crcAcc
  pending : s.pending = t.pending
  responses : s.responses = t.responses

/-- An N-form operation at the port (R76 to R78): the one word `word` runs `i`, and the words that differ from it only in the
argument field are illegal, answered ILLEGAL (0xF000) with no register changed. -/
def NoneFormAt (word : Word) (i : Instr) : Prop :=
  (∀ s, step (presentWord word s) = exec i s) ∧
  ∀ s (arg : Nine), arg ≠ 0#9 →
    step (presentWord (word ||| arg.setWidth 16) s) = .next { s with responses := s.responses ++ [0xF000#16] }

/-- A B-form operation at the port (R76 to R78): `word` with a byte in its low bits runs the operation on that byte, and with
`arg[8]` = 1 it is illegal. -/
def ByteFormAt (word : Word) (build : Byte → Instr) : Prop :=
  (∀ s (b : Byte), step (presentWord (word ||| b.setWidth 16) s) = exec (build b) s) ∧
  ∀ s (b : Byte),
    step (presentWord (word ||| 0x0100#16 ||| b.setWidth 16) s)
      = .next { s with responses := s.responses ++ [0xF000#16] }

/-- The I-form operation at the port (R76, R77): every 9-bit index is accepted. -/
def IndexFormAt (word : Word) (build : Nine → Instr) : Prop :=
  ∀ s (k : Nine), step (presentWord (word ||| k.setWidth 16) s) = exec (build k) s

/-- The response word `(code << 12) | data` (R80), from numbers. -/
def responseOf (code data : Nat) : Word := BitVec.ofNat 16 (code * 4096 + data)

end Sys2Proof.Machine
end

