-- ==== Sys2Proof/Certificates/Slice0/Obligations.lean ====
section
/-! DEFINITION. The statements about the model, from the numbered rules of the spec. A response word is written as the number
the spec gives it (R80, R81): 0x0000 plus data is OK, 0x1000 NOT_DONE, 0x2000 CHECKSUM_MISMATCH, 0x3000 TOO_MUCH_DATA, 0x4000
TOO_SMALL, 0x5000 BAD_STATE, 0x6000 END, 0x7000 SEQ_ERROR, 0x8000 FULL, 0x9000 NO_DATA, 0xA000 RANGE, 0xF000 ILLEGAL. A
conclusion `exec i s = .next { s with … }` is an instruction's completion, its result and its frame at once: every register
not written in the braces is unchanged. The response log `responses` and the waiting events `pending` are the model's own
fields for the two sides of the command port (notes/assumptions/1.md). -/

open Sys2Proof Sys2Proof.Machine

/-! Command words and the port. -/

/-- R75 to R77. Every word with a meaning has exactly one, and it is the word of that operation: no bit of an encoding is
dropped, at any operand. -/
def Obligations.DecodeAndEncodeAgree : Prop :=
  ∀ (w : Word) (i : Instr), decode w = .ok i ↔ encode i = w

/-- R77: "A word w selects the row where (w & mask) == match; no two rows overlap." A word is legal exactly when some row
selects it, and that row carries the mnemonic of the operation the decoder reads. -/
def Obligations.WordSelectsOneRow : Prop :=
  (∀ w : Word, (∃ i, decode w = .ok i) ↔ ∃ r ∈ opcodeRows, w &&& r.mask = r.matchBits) ∧
  (∀ (w : Word) (i : Instr), ∀ r ∈ opcodeRows, decode w = .ok i → w &&& r.mask = r.matchBits → r.mnemonic = mnemonicOf i) ∧
  (∀ w : Word, ∀ r ∈ opcodeRows, ∀ r' ∈ opcodeRows,
    w &&& r.mask = r.matchBits → w &&& r'.mask = r'.matchBits → r = r')

/-- R78 and R195. The words of an unassigned op, of a B-form op with `arg[8]` = 1 and of an N-form op with `arg` not 0 are
answered 0xF000 and change no register; every other word is some operation's. -/
def Obligations.IllegalWordsAnswered : Prop :=
  ∀ (op : BitVec 7) (arg : Nine),
    let unassigned := op.toNat = 0x00 ∨ (0x05 ≤ op.toNat ∧ op.toNat ≤ 0x07) ∨ op.toNat = 0x0F ∨
      (0x13 ≤ op.toNat ∧ op.toNat ≤ 0x17) ∨ op.toNat = 0x1B ∨ 0x1E ≤ op.toNat
    let byteForm := op.toNat ∈ [0x01, 0x08, 0x09, 0x10, 0x11]
    let indexForm := op.toNat = 0x1A
    let illegal := unassigned ∨ (byteForm ∧ arg.getLsbD 8 = true) ∨ (¬byteForm ∧ ¬indexForm ∧ arg ≠ 0#9)
    (illegal → ∀ (s : State) (rest : List PortEvent), s.pending = .word (op ++ arg) :: rest →
      step s = .next { s with pending := rest, responses := s.responses ++ [0xF000#16] }) ∧
    (¬illegal → ∃ i, decode (op ++ arg) = .ok i)

/-- R85, the worked example, with the words R77 works out. -/
def Obligations.WrittenOutWordsDecode : Prop :=
  decode 0x12DB#16 = .ok (.encPush 0xDB#8) ∧ decode 0x02C0#16 = .ok (.decByte 0xC0#8) ∧
  decode 0x3403#16 = .ok (.pktByte 3#9) ∧ decode 0x2007#16 = .ok (.crcSeed 0x07#8) ∧
  decode 0x3800#16 = .ok .errExp ∧ decode 0x0300#16 = .error (.reservedArg 0x01#7 0x100#9) ∧
  decode 0x0A00#16 = .error (.unassignedOp 0x05#7) ∧
  responseWord ⟨.ok, 0x1B#9⟩ = 0x001B#16 ∧ responseWord ⟨.notDone, 0#9⟩ = 0x1000#16 ∧
  responseWord ⟨.illegal, 0#9⟩ = 0xF000#16

/-- R83. The line the syntax writes for an operation is read back as that operation. -/
def Obligations.AssemblerReadsItsLines : Prop :=
  ∀ i : Instr, readLine (asmText i) = .ok (.op i)

/-- R11, R57, R59, R195, R230. A step takes the oldest event at the port: with none it changes nothing, a legal word runs the
operation it decodes to on the state without that word, an illegal word is answered 0xF000, and `rst` puts the registers to
reset and keeps the port. That the events and the responses are two lists, that an empty port leaves the machine as it is,
that `rst` keeps both lists and that the registers without a stated reset value take State.reset's are the model's choices
(notes/assumptions/1.md, 2.md, 4.md and 11.md). -/
def Obligations.StepTakesOldestEvent : Prop :=
  (∀ s : State, s.pending = [] → step s = .next s) ∧
  (∀ (s : State) (w : Word) (rest : List PortEvent) (i : Instr), s.pending = .word w :: rest → decode w = .ok i →
    step s = exec i { s with pending := rest }) ∧
  (∀ (s : State) (w : Word) (rest : List PortEvent) (e : Illegal), s.pending = .word w :: rest → decode w = .error e →
    step s = .next { s with pending := rest, responses := s.responses ++ [0xF000#16] }) ∧
  (∀ (s : State) (rest : List PortEvent), s.pending = .rst :: rest →
    step s = .next { State.reset with pending := rest, responses := s.responses })

/-- R57, R59, R80, R81, R115 (e). Every command word is answered by exactly one response word, at once; its bits [11:9] are 0
and its code is none of the reserved 11 to 14. -/
def Obligations.EveryWordAnsweredOnce : Prop :=
  ∀ (s : State) (w : Word) (rest : List PortEvent), s.pending = .word w :: rest →
    ∃ (t : State) (code data : Nat), step s = .next t ∧ t.pending = rest ∧
      t.responses = s.responses ++ [responseOf code data] ∧ data < 512 ∧ (code ≤ 10 ∨ code = 15)

/-- R230: "Asserting it sets every register to the reset value in 10_state.md". The registers with a stated reset value hold
it, from any state and at the model's reset state; nothing is said of the others (notes/assumptions/2.md). That one event
stands for the assertion and that it keeps the port is the model's choice (notes/assumptions/4.md). -/
def Obligations.ResetSetsStatedRegisters : Prop :=
  SpecReset State.reset ∧
  ∀ (s : State) (rest : List PortEvent), s.pending = .rst :: rest →
    ∃ t, step s = .next t ∧ SpecReset t ∧ t.pending = rest ∧ t.responses = s.responses

/-! The frame decoder, 40_decoder.md. -/

/-- R100. The words of DEC_BYTE feed their byte; every DEC_BYTE completes with one response, whose code is one of the rule's
six and whose data is 0 unless the code is OK, and it touches the decoder's registers alone. -/
def Obligations.DecByteFeedsOneByte : Prop :=
  ByteFormAt 0x0200#16 .decByte ∧
  ∀ (b : Byte) (s : State), ∃ (d : DecUnit) (code data : Nat),
    exec (.decByte b) s = .next { s with dec := d, responses := s.responses ++ [responseOf code data] } ∧
    data < 512 ∧ code ≤ 5 ∧ (code ≠ 0 → data = 0)

/-- R101. -/
def Obligations.IdleIgnoresAllButDelimiter : Prop :=
  ∀ (b : Byte) (s : State), s.dec.state = .idle →
    (b = 0xC0#8 → exec (.decByte b) s = .next { s with
      dec := { s.dec with len := 0#9, state := .inPacket }, responses := s.responses ++ [0x1000#16] }) ∧
    (b ≠ 0xC0#8 → exec (.decByte b) s = .next { s with responses := s.responses ++ [0x1000#16] })

/-- R102: the capacity check comes before the byte is classified. -/
def Obligations.FullBufferAbortsFrame : Prop :=
  ∀ (b : Byte) (s : State), s.dec.state = .inPacket → 259 ≤ s.dec.len.toNat →
    exec (.decByte b) s = .next { s with
      dec := { s.dec with state := .idle }, responses := s.responses ++ [0x3000#16] }

/-- R103. -/
def Obligations.EscapeByteEntersEscape : Prop :=
  ∀ s : State, s.dec.state = .inPacket → s.dec.len.toNat < 259 →
    exec (.decByte 0xDB#8) s = .next { s with
      dec := { s.dec with state := .inEscape }, responses := s.responses ++ [0x1000#16] }

/-- R105. The buffer's other elements are unchanged. -/
def Obligations.LiteralByteIsAppended : Prop :=
  ∀ (b : Byte) (s : State), s.dec.state = .inPacket → s.dec.len.toNat < 259 → b ≠ 0xC0#8 → b ≠ 0xDB#8 →
    ∃ buf : Bytes 259,
      exec (.decByte b) s = .next { s with
        dec := { s.dec with buf := buf, len := BitVec.ofNat 9 (s.dec.len.toNat + 1) },
        responses := s.responses ++ [0x1000#16] } ∧
      ∀ k, buf.cells[k]? = if k = s.dec.len.toNat then some b else s.dec.buf.cells[k]?

/-- R106. The premise on `dec_len` is invariant (c) of R115, kept by every step (`InvariantsKeptByEveryStep`). -/
def Obligations.ByteAfterEscapeIsLiteral : Prop :=
  ∀ (b : Byte) (s : State), s.dec.state = .inEscape → s.dec.len.toNat ≤ 258 →
    ∃ buf : Bytes 259,
      exec (.decByte b) s = .next { s with
        dec := { s.dec with buf := buf, len := BitVec.ofNat 9 (s.dec.len.toNat + 1), state := .inPacket },
        responses := s.responses ++ [0x1000#16] } ∧
      ∀ k, buf.cells[k]? = if k = s.dec.len.toNat
        then some (if b = 0xDC#8 then 0xC0#8 else if b = 0xDD#8 then 0xDB#8 else b)
        else s.dec.buf.cells[k]?

/-- R107. -/
def Obligations.InvalidStateRecovers : Prop :=
  ∀ (b : Byte) (s : State), s.dec.state = .invalid →
    exec (.decByte b) s = .next { s with
      dec := { s.dec with state := .idle }, responses := s.responses ++ [0x5000#16] }

/-- R108. -/
def Obligations.EmptyFrameIsNoise : Prop :=
  ∀ s : State, s.dec.state = .inPacket → s.dec.len = 0#9 →
    exec (.decByte 0xC0#8) s = .next { s with responses := s.responses ++ [0x1000#16] }

/-- R109. -/
def Obligations.OneByteFrameIsTooSmall : Prop :=
  ∀ s : State, s.dec.state = .inPacket → s.dec.len = 1#9 →
    exec (.decByte 0xC0#8) s = .next { s with
      dec := { s.dec with state := .idle }, responses := s.responses ++ [0x4000#16] }

/-- R110. The buffer holds a command, a payload and the checksum of the two: the packet registers take them, the payload
elements beyond the new length keep what they held (R28), and the data is the payload's length. -/
def Obligations.ValidFrameHandsOffPacket : Prop :=
  ∀ (s : State) (c k : Byte) (p : List Byte), s.dec.state = .inPacket → p.length ≤ 256 →
    s.dec.len.toNat = p.length + 2 → s.dec.buf.cells.take (p.length + 2) = c :: (p ++ [k]) → crc8 (c :: p) 0x00#8 = k →
    ∃ payload : Bytes 256,
      exec (.decByte 0xC0#8) s = .next { s with
        dec := { s.dec with
          state := .idle, pktValid := true, pktCmd := c, pktLen := BitVec.ofNat 9 p.length, pktPayload := payload },
        responses := s.responses ++ [responseOf 0 p.length] } ∧
      payload.cells = p ++ s.dec.pktPayload.cells.drop p.length

/-- R111. Both checksums are captured, and the packet registers keep the previous packet. -/
def Obligations.BadChecksumIsCaptured : Prop :=
  ∀ (s : State) (c k : Byte) (p : List Byte), s.dec.state = .inPacket → p.length ≤ 256 →
    s.dec.len.toNat = p.length + 2 → s.dec.buf.cells.take (p.length + 2) = c :: (p ++ [k]) → crc8 (c :: p) 0x00#8 ≠ k →
    exec (.decByte 0xC0#8) s = .next { s with
      dec := { s.dec with
        state := .idle, errValid := true, errExpected := crc8 (c :: p) 0x00#8, errReceived := k },
      responses := s.responses ++ [0x2000#16] }

/-- R112. -/
def Obligations.DecResetReturnsToIdle : Prop :=
  NoneFormAt 0x0400#16 .decReset ∧
  ∀ s : State, exec .decReset s = .next { s with
    dec := { s.dec with state := .idle, len := 0#9 }, responses := s.responses ++ [0x0000#16] }

/-- R113 and R114, with the numbers of R22. -/
def Obligations.DecoderPositionReads : Prop :=
  NoneFormAt 0x0600#16 .decState ∧ NoneFormAt 0x0800#16 .decLen ∧
  ∀ s : State,
    exec .decState s = .next { s with responses := s.responses ++
      [match s.dec.state with
        | .idle => 0x0000#16
        | .inPacket => 0x0001#16
        | .inEscape => 0x0002#16
        | .invalid => 0x0003#16] } ∧
    exec .decLen s = .next { s with responses := s.responses ++ [responseOf 0 s.dec.len.toNat] }

/-- R217. In IDLE a burst of noise without a delimiter costs only NOT_DONE responses and changes no register. -/
def Obligations.NoiseInIdleIsHarmless : Prop :=
  ∀ (s : State) (noise : List Byte), s.dec.state = .idle → 0xC0#8 ∉ noise →
    runOps (expandPseudo (.feed noise)) s
      = .next { s with pending := [], responses := s.responses ++ List.replicate noise.length 0x1000#16 }

/-- R117. A frame fed to a decoder at rest is NOT_DONE at every byte but the last and OK at the last, and leaves its packet in
the packet registers; no other unit and no captured error changes. -/
def Obligations.FedFrameDeliversPacket : Prop :=
  ∀ (s : State) (c : Byte) (p : List Byte), p.length ≤ 256 →
    s.dec.state = .idle ∨ (s.dec.state = .inPacket ∧ s.dec.len = 0#9) →
    ∃ d : DecUnit,
      runOps (expandPseudo (.feed (frame c p))) s = .next { s with
        dec := d, pending := [],
        responses := s.responses ++ (List.replicate ((frame c p).length - 1) 0x1000#16 ++ [responseOf 0 p.length]) } ∧
      d.state = .idle ∧ d.pktValid = true ∧ d.pktCmd = c ∧ d.pktLen.toNat = p.length ∧
      d.pktPayload.cells.take p.length = p ∧
      d.errValid = s.dec.errValid ∧ d.errExpected = s.dec.errExpected ∧ d.errReceived = s.dec.errReceived

/-- R116, third point. When a frame was cut short with content in the buffer, the next frame's leading delimiter completes it
(any result but NOT_DONE), the next frame's content is ignored, and its trailing delimiter starts an empty frame: the next
frame is lost. -/
def Obligations.CutFrameLosesNextFrame : Prop :=
  ∀ (s u : State) (c : Byte) (p : List Byte), s.dec.state = .inPacket → s.dec.len ≠ 0#9 →
    exec (.decByte 0xC0#8) s = .next u →
    u.dec.state = .idle ∧
    ∃ r : Word, responseCode r ≠ 1#4 ∧ u.responses = s.responses ++ [r] ∧
      runOps (expandPseudo (.feed (frame c p))) s = .next { s with
        dec := { u.dec with state := .inPacket, len := 0#9 }, pending := [],
        responses := s.responses ++ (r :: List.replicate ((frame c p).length - 1) 0x1000#16) }

/-- R236. Two extra delimiters before a frame resynchronise the receiver from every state it can be in (the invariants of
R115, kept by every step: `InvariantsKeptByEveryStep`). One is not enough after an abort inside an escape pair: it is taken as
a literal, the next frame's leading delimiter completes the partial frame (any result but NOT_DONE), every further byte of
that frame is NOT_DONE, so no byte of it delivers it, and the packet and capture registers stay as that delimiter left
them. -/
def Obligations.TwoDelimitersResynchronise : Prop :=
  (∀ (s : State) (c : Byte) (p : List Byte), DecInv s.dec → p.length ≤ 256 →
    ∃ (t : State) (r1 r2 : Word),
      runOps (expandPseudo (.feed (0xC0#8 :: 0xC0#8 :: frame c p))) s = .next t ∧
      t.responses = s.responses ++
        (r1 :: r2 :: (List.replicate ((frame c p).length - 1) 0x1000#16 ++ [responseOf 0 p.length])) ∧
      t.dec.state = .idle ∧ t.dec.pktValid = true ∧ t.dec.pktCmd = c ∧ t.dec.pktLen.toNat = p.length ∧
      t.dec.pktPayload.cells.take p.length = p) ∧
  (∀ (s u v : State) (c : Byte) (p : List Byte), s.dec.state = .inEscape → s.dec.len.toNat ≤ 258 →
    exec (.decByte 0xC0#8) s = .next u → exec (.decByte 0xC0#8) u = .next v →
    v.dec.state = .idle ∧
    ∃ r : Word, responseCode r ≠ 1#4 ∧ v.responses = s.responses ++ [0x1000#16, r] ∧
      runOps (expandPseudo (.feed (0xC0#8 :: frame c p))) s = .next { s with
        dec := { v.dec with state := .inPacket, len := 0#9 }, pending := [],
        responses := s.responses ++ (0x1000#16 :: r :: List.replicate ((frame c p).length - 1) 0x1000#16) })

/-- R102, R211 and R215. With 257 payload bytes TOO_MUCH_DATA comes at the trailing delimiter; with 258 or more it comes at an
earlier byte, the rest of the frame is ignored, and its trailing delimiter starts an empty frame. Only `dec_state`, `dec_buf`
and `dec_len` change: all four packet registers and all three capture registers are kept. -/
def Obligations.OverlongPayloadRejected : Prop :=
  ∀ (s : State) (c : Byte) (p : List Byte), s.dec.state = .idle →
    (p.length = 257 → ∃ buf : Bytes 259,
      runOps (expandPseudo (.feed (frame c p))) s = .next { s with
        dec := { s.dec with state := .idle, buf := buf, len := 259#9 }, pending := [],
        responses := s.responses ++ (List.replicate ((frame c p).length - 1) 0x1000#16 ++ [0x3000#16]) }) ∧
    (258 ≤ p.length → ∃ (buf : Bytes 259) (before after : Nat),
      before + 1 + after = (frame c p).length ∧ 0 < after ∧
      runOps (expandPseudo (.feed (frame c p))) s = .next { s with
        dec := { s.dec with state := .inPacket, buf := buf, len := 0#9 }, pending := [],
        responses := s.responses ++
          (List.replicate before 0x1000#16 ++ [0x3000#16] ++ List.replicate after 0x1000#16) })

/-- R8 and 93_implementation_defined.md I12, over the parameter DEC_BUF_MAX up to this hardware's 259: a decoder of that
capacity accepts exactly the frames whose payload has at most DEC_BUF_MAX - 3 bytes. The instruction's own capacity is 259
(notes/assumptions/9.md). -/
def Obligations.CapacityBoundsAcceptedPayload : Prop :=
  ∀ (cap : Nat) (d : DecUnit) (c : Byte) (p : List Byte), 3 ≤ cap → cap ≤ 259 → d.state = .idle →
    ((feedAll cap (frame c p) d).2.getLast? = some ⟨.ok, BitVec.ofNat 9 p.length⟩ ↔ p.length + 3 ≤ cap) ∧
    (p.length + 3 ≤ cap →
      (feedAll cap (frame c p) d).1.pktCmd = c ∧ (feedAll cap (frame c p) d).1.pktLen.toNat = p.length ∧
      (feedAll cap (frame c p) d).1.pktPayload.cells.take p.length = p)

/-! The frame encoder, 41_encoder.md. -/

/-- R141. -/
def Obligations.EncBeginStartsLoading : Prop :=
  ByteFormAt 0x1000#16 .encBegin ∧
  ∀ (c : Byte) (s : State),
    (s.enc.phase = .idle → exec (.encBegin c) s = .next { s with
      enc := { s.enc with cmd := c, len := 0#9, phase := .loading }, responses := s.responses ++ [0x0000#16] }) ∧
    (s.enc.phase ≠ .idle → exec (.encBegin c) s = .next { s with responses := s.responses ++ [0x7000#16] })

/-- R142. The payload's other elements are unchanged; the 257th push changes nothing. -/
def Obligations.EncPushAppendsByte : Prop :=
  ByteFormAt 0x1200#16 .encPush ∧
  ∀ (b : Byte) (s : State),
    (s.enc.phase ≠ .loading → exec (.encPush b) s = .next { s with responses := s.responses ++ [0x7000#16] }) ∧
    (s.enc.phase = .loading → s.enc.len.toNat = 256 →
      exec (.encPush b) s = .next { s with responses := s.responses ++ [0x8000#16] }) ∧
    (s.enc.phase = .loading → s.enc.len.toNat < 256 →
      ∃ payload : Bytes 256,
        exec (.encPush b) s = .next { s with
          enc := { s.enc with payload := payload, len := BitVec.ofNat 9 (s.enc.len.toNat + 1) },
          responses := s.responses ++ [responseOf 0 (s.enc.len.toNat + 1)] } ∧
        ∀ k, payload.cells[k]? = if k = s.enc.len.toNat then some b else s.enc.payload.cells[k]?)

/-- R143. -/
def Obligations.EncGoStartsSequence : Prop :=
  NoneFormAt 0x1400#16 .encGo ∧
  ∀ s : State,
    (s.enc.phase = .loading → exec .encGo s = .next { s with
      enc := { s.enc with crc := 0x00#8, idx := 0#9, pendValid := false, phase := .start },
      responses := s.responses ++ [0x0000#16] }) ∧
    (s.enc.phase ≠ .loading → exec .encGo s = .next { s with responses := s.responses ++ [0x7000#16] })

/-- R144 and R212, ENC_NEXT where no byte is produced: END in IDLE, SEQ_ERROR while loading, BAD_STATE from the invalid phase;
and its one legal word. -/
def Obligations.EncNextWithoutSequence : Prop :=
  NoneFormAt 0x1600#16 .encNext ∧
  ∀ s : State,
    (s.enc.phase = .idle → exec .encNext s = .next { s with responses := s.responses ++ [0x6000#16] }) ∧
    (s.enc.phase = .loading → exec .encNext s = .next { s with responses := s.responses ++ [0x7000#16] }) ∧
    (s.enc.phase = .invalid → exec .encNext s = .next { s with
      enc := { s.enc with phase := .idle, pendValid := false }, responses := s.responses ++ [0x5000#16] })

/-- R144, the raw delimiters: the first byte of a sequence and the last. -/
def Obligations.EncNextSendsDelimiters : Prop :=
  ∀ s : State, s.enc.pendValid = false →
    (s.enc.phase = .start → exec .encNext s = .next { s with
      enc := { s.enc with phase := .cmd }, responses := s.responses ++ [0x00C0#16] }) ∧
    (s.enc.phase = .ending → exec .encNext s = .next { s with
      enc := { s.enc with phase := .idle }, responses := s.responses ++ [0x00C0#16] })

/-- R144 to R146, phase CMD: the command byte is folded into the checksum once; a special byte takes two operations, the
second of which does not fold; the phase advances after the item's last wire byte. -/
def Obligations.EncNextSendsCommand : Prop :=
  ∀ s : State, s.enc.phase = .cmd →
    let following : EncPhase := if s.enc.len = 0#9 then .crc else .payload
    let folded := crc8Update s.enc.crc s.enc.cmd
    (s.enc.pendValid = false → s.enc.cmd ≠ 0xC0#8 → s.enc.cmd ≠ 0xDB#8 → exec .encNext s = .next { s with
      enc := { s.enc with crc := folded, idx := 0#9, phase := following },
      responses := s.responses ++ [responseOf 0 s.enc.cmd.toNat] }) ∧
    (s.enc.pendValid = false → s.enc.cmd = 0xC0#8 → exec .encNext s = .next { s with
      enc := { s.enc with crc := folded, pend := 0xDC#8, pendValid := true },
      responses := s.responses ++ [0x00DB#16] }) ∧
    (s.enc.pendValid = false → s.enc.cmd = 0xDB#8 → exec .encNext s = .next { s with
      enc := { s.enc with crc := folded, pend := 0xDD#8, pendValid := true },
      responses := s.responses ++ [0x00DB#16] }) ∧
    (s.enc.pendValid = true → exec .encNext s = .next { s with
      enc := { s.enc with pendValid := false, idx := 0#9, phase := following },
      responses := s.responses ++ [responseOf 0 s.enc.pend.toNat] })

/-- R144 to R146, phase PAYLOAD, where `v` is `enc_payload[enc_idx]`. The index is within the array by the encoder's
invariants (R146, `InvariantsKeptByEveryStep`). -/
def Obligations.EncNextSendsPayloadByte : Prop :=
  ∀ (s : State) (v : Byte), s.enc.phase = .payload → s.enc.payload.cells[s.enc.idx.toNat]? = some v →
    let nextIdx : Nine := BitVec.ofNat 9 (s.enc.idx.toNat + 1)
    let following : EncPhase := if nextIdx = s.enc.len then .crc else .payload
    let folded := crc8Update s.enc.crc v
    (s.enc.pendValid = false → v ≠ 0xC0#8 → v ≠ 0xDB#8 → exec .encNext s = .next { s with
      enc := { s.enc with crc := folded, idx := nextIdx, phase := following },
      responses := s.responses ++ [responseOf 0 v.toNat] }) ∧
    (s.enc.pendValid = false → v = 0xC0#8 → exec .encNext s = .next { s with
      enc := { s.enc with crc := folded, pend := 0xDC#8, pendValid := true },
      responses := s.responses ++ [0x00DB#16] }) ∧
    (s.enc.pendValid = false → v = 0xDB#8 → exec .encNext s = .next { s with
      enc := { s.enc with crc := folded, pend := 0xDD#8, pendValid := true },
      responses := s.responses ++ [0x00DB#16] }) ∧
    (s.enc.pendValid = true → exec .encNext s = .next { s with
      enc := { s.enc with pendValid := false, idx := nextIdx, phase := following },
      responses := s.responses ++ [responseOf 0 s.enc.pend.toNat] })

/-- R144 to R146, phase CRC: the checksum goes out escaped like every other item and is not folded. -/
def Obligations.EncNextSendsChecksum : Prop :=
  ∀ s : State, s.enc.phase = .crc →
    (s.enc.pendValid = false → s.enc.crc ≠ 0xC0#8 → s.enc.crc ≠ 0xDB#8 → exec .encNext s = .next { s with
      enc := { s.enc with phase := .ending }, responses := s.responses ++ [responseOf 0 s.enc.crc.toNat] }) ∧
    (s.enc.pendValid = false → s.enc.crc = 0xC0#8 → exec .encNext s = .next { s with
      enc := { s.enc with pend := 0xDC#8, pendValid := true }, responses := s.responses ++ [0x00DB#16] }) ∧
    (s.enc.pendValid = false → s.enc.crc = 0xDB#8 → exec .encNext s = .next { s with
      enc := { s.enc with pend := 0xDD#8, pendValid := true }, responses := s.responses ++ [0x00DB#16] }) ∧
    (s.enc.pendValid = true → exec .encNext s = .next { s with
      enc := { s.enc with pendValid := false, phase := .ending },
      responses := s.responses ++ [responseOf 0 s.enc.pend.toNat] })

/-- R147. -/
def Obligations.EncAbortFromEveryPhase : Prop :=
  NoneFormAt 0x1800#16 .encAbort ∧
  ∀ s : State, exec .encAbort s = .next { s with
    enc := { s.enc with phase := .idle, pendValid := false }, responses := s.responses ++ [0x0000#16] }

/-- R148 and R149, with the numbers of R32: data[3] is `enc_pend_valid`, data[2:0] is `enc_phase`. -/
def Obligations.EncoderPositionReads : Prop :=
  NoneFormAt 0x1A00#16 .encState ∧ NoneFormAt 0x1C00#16 .encLen ∧
  ∀ s : State,
    let phase : Nat := match s.enc.phase with
      | .idle => 0
      | .loading => 1
      | .start => 2
      | .cmd => 3
      | .payload => 4
      | .crc => 5
      | .ending => 6
      | .invalid => 7
    exec .encState s = .next { s with responses := s.responses ++
      [responseOf 0 (if s.enc.pendValid then 8 + phase else phase)] } ∧
    exec .encLen s = .next { s with responses := s.responses ++ [responseOf 0 s.enc.len.toNat] }

/-- R150, as a refinement: while a sequence is in progress, ENC_NEXT sends the first byte the sequence owes and owes the rest
after it, under the encoder's invariants. -/
def Obligations.EncNextSendsFirstByteOwed : Prop :=
  ∀ s : State, EncInv s.enc → inSequence s.enc.phase = true →
    ∃ (b : Byte) (e : EncUnit),
      exec .encNext s = .next { s with enc := e, responses := s.responses ++ [responseOf 0 b.toNat] } ∧
      bytesOwed s.enc = b :: bytesOwed e ∧ EncInv e

/-- R150 and R152. LOAD and DRAIN give the wire frame of the packet, then END, within 519 ENC_NEXT operations; the decoder and
the checksum unit are untouched. That DRAIN is a loop with a bound on its turns is the model's choice
(notes/assumptions/14.md). -/
def Obligations.LoadedPacketDrainsAsFrame : Prop :=
  ∀ (s : State) (c : Byte) (p : List Byte), p.length ≤ 256 → s.enc.phase = .idle →
    ∃ (t : State) (r : Drained),
      runOps (expandPseudo (.load c p)) s = .next t ∧
      t.responses = s.responses ++
        (0x0000#16 :: ((List.range p.length).map (fun k => responseOf 0 (k + 1)) ++ [0x0000#16])) ∧
      drain 519 t = some r ∧ r.bytes = frame c p ∧ r.final = 0x6000#16 ∧ r.state.enc.phase = .idle ∧
      r.state.dec = s.dec ∧ r.state.crcAcc = s.crcAcc

/-- §8 of the source, R117 with R150: decode(encode(packet)) = packet, through the block itself: load a packet, drain its
bytes, feed them back. -/
def Obligations.LoopbackDeliversPacket : Prop :=
  ∀ (s : State) (c : Byte) (p : List Byte), p.length ≤ 256 → s.enc.phase = .idle → s.dec.state = .idle →
    ∃ (t : State) (r : Drained) (u : State),
      runOps (expandPseudo (.load c p)) s = .next t ∧ drain 519 t = some r ∧
      runOps (expandPseudo (.feed r.bytes)) r.state = .next u ∧
      u.dec.pktValid = true ∧ u.dec.pktCmd = c ∧ u.dec.pktLen.toNat = p.length ∧
      u.dec.pktPayload.cells.take p.length = p

/-! The wire format and the checksum. -/

/-- R72. The length of a frame and its bounds; 0xC0 occurs only at its two ends; 0xDB occurs only as the first byte of an
escape pair. -/
def Obligations.FrameShapeOnWire : Prop :=
  ∀ (c : Byte) (p : List Byte),
    (frame c p).length = 4 + p.length + escapesIn (frameContent c p) ∧
    4 ≤ (frame c p).length ∧ (p.length ≤ 256 → (frame c p).length ≤ 518) ∧
    (∀ k, (frame c p)[k]? = some 0xC0#8 → k = 0 ∨ k + 1 = (frame c p).length) ∧
    (∀ k, (frame c p)[k]? = some 0xDB#8 →
      (frame c p)[k + 1]? = some 0xDC#8 ∨ (frame c p)[k + 1]? = some 0xDD#8)

/-- R174, R175 and R176. -/
def Obligations.ChecksumUnitOperations : Prop :=
  ByteFormAt 0x2000#16 .crcSeed ∧ ByteFormAt 0x2200#16 .crcByte ∧ NoneFormAt 0x2400#16 .crcRead ∧
  ∀ (v : Byte) (s : State),
    exec (.crcSeed v) s = .next { s with crcAcc := v, responses := s.responses ++ [0x0000#16] } ∧
    exec (.crcByte v) s = .next { s with
      crcAcc := crc8Update s.crcAcc v,
      responses := s.responses ++ [responseOf 0 (crc8Update s.crcAcc v).toNat] } ∧
    exec .crcRead s = .next { s with responses := s.responses ++ [responseOf 0 s.crcAcc.toNat] }

/-- R84 and R172. The CRC pseudo-operation leaves the checksum of its bytes in the accumulator, and the running seed makes the
computation incremental. -/
def Obligations.ChecksumIsIncremental : Prop :=
  (∀ (a b : List Byte) (seed : Byte), crc8 (a ++ b) seed = crc8 b (crc8 a seed)) ∧
  ∀ (s : State) (bytes : List Byte),
    ∃ t, runOps (expandPseudo (.crc bytes)) s = .next t ∧ t.crcAcc = crc8 bytes 0x00#8 ∧
      t.dec = s.dec ∧ t.enc = s.enc

/-- R173. A sequence followed by its own checksum has checksum 0, and no other last byte gives 0: the decoder's test may be
built either way. -/
def Obligations.ChecksumResidueIsZero : Prop :=
  ∀ (m : List Byte) (k : Byte), crc8 (m ++ [k]) 0x00#8 = 0x00#8 ↔ crc8 m 0x00#8 = k

/-- R170 and R178. The table the spec prints is the update function. -/
def Obligations.ChecksumTableIsUpdate : Prop :=
  crcTable.length = 256 ∧ ∀ c b : Byte, crcTable[(c ^^^ b).toNat]? = some (crc8Update c b)

/-- R177 and R111. Any single bit flipped in the content of a valid frame, with the framing unchanged, makes the decoder report
CHECKSUM_MISMATCH at the frame's end. The capture registers take the checksum of the flipped content and its last byte, and no
other register than these and `dec_state` changes: all four packet registers keep the previous packet. -/
def Obligations.SingleBitErrorIsReported : Prop :=
  ∀ (s : State) (content : List Byte) (i j : Nat), 2 ≤ content.length → content.length ≤ 258 →
    content.getLast? = some (crc8 content.dropLast 0x00#8) → i < content.length → j < 8 →
    s.dec.state = .inPacket → s.dec.len.toNat = content.length →
    let flipped := content.modify i (fun v => v ^^^ (1#8 <<< j))
    s.dec.buf.cells.take content.length = flipped →
    ∃ k : Byte, flipped.getLast? = some k ∧ crc8 flipped.dropLast 0x00#8 ≠ k ∧
      exec (.decByte 0xC0#8) s = .next { s with
        dec := { s.dec with
          state := .idle, errValid := true, errExpected := crc8 flipped.dropLast 0x00#8, errReceived := k },
        responses := s.responses ++ [0x2000#16] }

/-! Readout, 43_readout.md. -/

/-- R190, R191 and R192: NO_DATA before RANGE, and PKT_BYTE answers the payload element for every index below `pkt_len`. The
length's bound is invariant (d) of R115. -/
def Obligations.PacketReadout : Prop :=
  NoneFormAt 0x3000#16 .pktCmd ∧ NoneFormAt 0x3200#16 .pktLen ∧ IndexFormAt 0x3400#16 .pktByte ∧
  (∀ (s : State) (k : Nine), s.dec.pktValid = false →
    exec .pktCmd s = .next { s with responses := s.responses ++ [0x9000#16] } ∧
    exec .pktLen s = .next { s with responses := s.responses ++ [0x9000#16] } ∧
    exec (.pktByte k) s = .next { s with responses := s.responses ++ [0x9000#16] }) ∧
  (∀ (s : State) (k : Nine), s.dec.pktValid = true →
    exec .pktCmd s = .next { s with responses := s.responses ++ [responseOf 0 s.dec.pktCmd.toNat] } ∧
    exec .pktLen s = .next { s with responses := s.responses ++ [responseOf 0 s.dec.pktLen.toNat] } ∧
    (s.dec.pktLen.toNat ≤ k.toNat →
      exec (.pktByte k) s = .next { s with responses := s.responses ++ [0xA000#16] }) ∧
    (k.toNat < s.dec.pktLen.toNat → ∀ v, s.dec.pktPayload.cells[k.toNat]? = some v →
      exec (.pktByte k) s = .next { s with responses := s.responses ++ [responseOf 0 v.toNat] }) ∧
    (k.toNat < s.dec.pktLen.toNat → s.dec.pktLen.toNat ≤ 256 → ∃ v, s.dec.pktPayload.cells[k.toNat]? = some v))

/-- R193 and R194. -/
def Obligations.ErrorReadout : Prop :=
  NoneFormAt 0x3800#16 .errExp ∧ NoneFormAt 0x3A00#16 .errRcv ∧
  (∀ s : State, s.dec.errValid = false →
    exec .errExp s = .next { s with responses := s.responses ++ [0x9000#16] } ∧
    exec .errRcv s = .next { s with responses := s.responses ++ [0x9000#16] }) ∧
  (∀ s : State, s.dec.errValid = true →
    exec .errExp s = .next { s with responses := s.responses ++ [responseOf 0 s.dec.errExpected.toNat] } ∧
    exec .errRcv s = .next { s with responses := s.responses ++ [responseOf 0 s.dec.errReceived.toNat] })

/-! The whole block. -/

/-- R115, R13, R146, R153: the invariants hold after every step from a state in which they hold. -/
def Obligations.InvariantsKeptByEveryStep : Prop :=
  ∀ s t : State, Inv s → step s = .next t → Inv t

/-- R115: the invariants hold after reset, whatever the registers hold that the spec gives no reset value. -/
def Obligations.InvariantsHoldAtReset : Prop :=
  Inv State.reset ∧ ∀ s : State, SpecReset s → Inv s

/-- R20 and R60: every operation completes, writes only the registers of its own unit and hands back one response. -/
def Obligations.OperationsTouchOwnUnit : Prop :=
  ∀ (i : Instr) (s : State), ∃ (t : State) (r : Word), exec i s = .next t ∧
    t.pending = s.pending ∧ t.responses = s.responses ++ [r] ∧
    (i.owner ≠ .dec → t.dec = s.dec) ∧ (i.owner ≠ .enc → t.enc = s.enc) ∧ (i.owner ≠ .crc → t.crcAcc = s.crcAcc)

/-- R60: operations of different units commute, registers and responses alike. -/
def Obligations.UnitsCommute : Prop :=
  ∀ (i j : Instr) (s : State), i.owner ≠ j.owner →
    ∃ (a b t u : State) (ri rj : Word),
      exec i s = .next a ∧ exec j a = .next t ∧ exec j s = .next b ∧ exec i b = .next u ∧
      t.dec = u.dec ∧ t.enc = u.enc ∧ t.crcAcc = u.crcAcc ∧
      t.responses = s.responses ++ [ri, rj] ∧ u.responses = s.responses ++ [rj, ri]

/-- R58: the ten read operations change no register, and repeating one gives the same result. -/
def Obligations.ReadsChangeNothing : Prop :=
  ∀ (i : Instr) (s : State) (k : Nine),
    i ∈ [.decState, .decLen, .encState, .encLen, .crcRead, .pktCmd, .pktLen, .pktByte k, .errExp, .errRcv] →
    ∃ r : Word, exec i s = .next { s with responses := s.responses ++ [r] } ∧
      exec i { s with responses := s.responses ++ [r] } = .next { s with responses := s.responses ++ [r] ++ [r] }

/-- R25 to R28, R234: the packet registers change only in a DEC_BYTE that answers OK, which sets `pkt_valid`; no operation
clears it. -/
def Obligations.PacketChangesOnlyOnOk : Prop :=
  ∀ (i : Instr) (s t : State), exec i s = .next t →
    (t.dec.pktValid = s.dec.pktValid ∧ t.dec.pktCmd = s.dec.pktCmd ∧ t.dec.pktLen = s.dec.pktLen ∧
      t.dec.pktPayload = s.dec.pktPayload) ∨
    (i = .decByte 0xC0#8 ∧ s.dec.state = .inPacket ∧ 2 ≤ s.dec.len.toNat ∧ t.dec.pktValid = true ∧
      t.responses = s.responses ++ [responseOf 0 t.dec.pktLen.toNat])

/-- R29 to R31, R211, R215: the capture registers change only in a DEC_BYTE that answers CHECKSUM_MISMATCH, which sets
`err_valid`; no operation clears it. -/
def Obligations.CaptureChangesOnlyOnMismatch : Prop :=
  ∀ (i : Instr) (s t : State), exec i s = .next t →
    (t.dec.errValid = s.dec.errValid ∧ t.dec.errExpected = s.dec.errExpected ∧
      t.dec.errReceived = s.dec.errReceived) ∨
    (i = .decByte 0xC0#8 ∧ s.dec.state = .inPacket ∧ 2 ≤ s.dec.len.toNat ∧ t.dec.errValid = true ∧
      t.responses = s.responses ++ [0x2000#16])

/-- D29, I7 and I8: one step keeps two machines alike that no agent can tell apart, response for response. -/
def Obligations.StepKeepsMachinesAlike : Prop :=
  ∀ s t s' : State, Inv s → Same s t → step s = .next s' → ∃ t', step t = .next t' ∧ Same s' t'

/-- D29 and I7: "no observation depends on the draw". From two machines with the stated reset values and anything at all in
the other registers, the same events at the port give the same responses for as long as they run. So nothing an agent sees
rests on the values the model names for those registers (notes/assumptions/2.md). -/
def Obligations.ResetContentsUnobservable : Prop :=
  ∀ (s t : State) (n : Nat), SpecReset s → SpecReset t → s.pending = t.pending → s.responses = t.responses →
    ∃ s' t', Host.Core.run Sys2Proof.core n s = .next s' ∧ Host.Core.run Sys2Proof.core n t = .next t' ∧
      s'.responses = t'.responses ∧ s'.pending = t'.pending
end

