-- ==== Sys2Proof/Laws/Bytes.lean ====
section
/-! SUPPORT. What reads and writes of the byte arrays do (Machine/Operands.lean). -/

namespace Sys2Proof.Machine

@[simp] theorem Bytes.length_cells {n : Nat} (v : Bytes n) : v.cells.length = n := v.size

@[simp] theorem Bytes.zeros_cells (n : Nat) : (Bytes.zeros n).cells = List.replicate n 0#8 := rfl

@[simp] theorem writeAt_cells {n : Nat} (v : Bytes n) (i : Nat) (b : Byte) : (writeAt v i b).cells = v.cells.set i b := rfl

/-- A read inside the array answers the element. -/
theorem readAt_of_lt {n : Nat} (a : Config.ArrayName) (v : Bytes n) {i : Nat} (h : i < n) :
    readAt a v i = v.cells[i]'(by rw [v.size]; exact h) := by
  simp [readAt, h]

/-- A read that finds an element answers it, whatever the array's name. -/
theorem readAt_of_some {n : Nat} (a : Config.ArrayName) (v : Bytes n) {i : Nat} {b : Byte} (h : v.cells[i]? = some b) :
    readAt a v i = b := by
  simp [readAt, h]

/-- Read after write, same element. -/
theorem readAt_writeAt_same {n : Nat} (a : Config.ArrayName) (v : Bytes n) {i : Nat} (b : Byte) (h : i < n) :
    readAt a (writeAt v i b) i = b := by
  simp [readAt, h]

/-- A write leaves every other element alone. -/
theorem readAt_writeAt_other {n : Nat} (a : Config.ArrayName) (v : Bytes n) {i j : Nat} (b : Byte) (h : i ≠ j) :
    readAt a (writeAt v i b) j = readAt a v j := by
  simp [readAt, List.getElem?_set_ne h]

/-- Appending at index `i` extends the prefix of length `i` by the byte written. -/
theorem take_writeAt {n : Nat} (v : Bytes n) {i : Nat} (b : Byte) (h : i < n) :
    (writeAt v i b).cells.take (i + 1) = v.cells.take i ++ [b] := by
  have hi : i < (v.cells.set i b).length := by simpa using h
  rw [writeAt_cells, List.take_succ_eq_append_getElem hi]
  rw [List.take_set, List.set_eq_of_length_le (by simp)]
  simp

/-- The copy loop writes the source over the elements from `i` on and keeps the others. -/
theorem writeFrom_cells {n : Nat} (src : List Byte) (v : Bytes n) (i : Nat) (h : i + src.length ≤ n) :
    (writeFrom v i src).cells = v.cells.take i ++ src ++ v.cells.drop (i + src.length) := by
  induction src generalizing v i with
  | nil => simp [writeFrom]
  | cons b rest ih =>
    simp only [List.length_cons] at h
    have hi : i < n := by omega
    rw [writeFrom, ih _ _ (by omega), take_writeAt v b hi]
    rw [writeAt_cells, List.drop_set_of_lt (by omega), List.length_cons, show i + 1 + rest.length = i + (rest.length + 1) by omega]
    simp only [List.append_assoc, List.cons_append, List.nil_append]

/-- The prefix the copy loop of R110 leaves is its source. -/
theorem take_writeFrom_zero {n : Nat} (src : List Byte) (v : Bytes n) (h : src.length ≤ n) :
    (writeFrom v 0 src).cells.take src.length = src := by
  simp [writeFrom_cells src v 0 (by omega)]

/-- The elements beyond the source keep what they held (R28). -/
theorem drop_writeFrom_zero {n : Nat} (src : List Byte) (v : Bytes n) (h : src.length ≤ n) :
    (writeFrom v 0 src).cells.drop src.length = v.cells.drop src.length := by
  simp [writeFrom_cells src v 0 (by omega)]

end Sys2Proof.Machine
end

