-- ==== Sys2Proof/Laws/Crc.lean ====
section
/-! SUPPORT. The CRC-8 as algebra: it is linear over exclusive or, one update is a permutation, and the fold splits at any
point (R172). -/

namespace Sys2Proof.Machine

/-- One bit step is linear. -/
theorem crcShift_xor (a b : Byte) : crcShift (a ^^^ b) = crcShift a ^^^ crcShift b := by
  have key : ∀ x y : Byte, (if (x ^^^ y).getLsbD 7 then ((x ^^^ y) <<< 1) ^^^ CRC_POLY else (x ^^^ y) <<< 1)
      = (if x.getLsbD 7 then (x <<< 1) ^^^ CRC_POLY else x <<< 1) ^^^
        (if y.getLsbD 7 then (y <<< 1) ^^^ CRC_POLY else y <<< 1) := by
    intro x y
    rw [BitVec.getLsbD_xor, BitVec.shiftLeft_xor_distrib]
    generalize x <<< 1 = u
    generalize y <<< 1 = v
    cases x.getLsbD 7 <;> cases y.getLsbD 7 <;> simp
    · rw [BitVec.xor_assoc]
    · rw [BitVec.xor_assoc, BitVec.xor_assoc, BitVec.xor_comm v]
    · rw [show u ^^^ CRC_POLY ^^^ (v ^^^ CRC_POLY) = u ^^^ v ^^^ (CRC_POLY ^^^ CRC_POLY) by
        rw [BitVec.xor_assoc, BitVec.xor_assoc, ← BitVec.xor_assoc CRC_POLY v, BitVec.xor_comm CRC_POLY v,
          BitVec.xor_assoc v]]
      simp
  exact key a b

/-- `crc8_update` depends only on `c xor b` (R170). -/
theorem crc8Update_eq_zero_seed (c b : Byte) : crc8Update c b = crc8Update 0#8 (c ^^^ b) := by
  simp [crc8Update]

/-- `crc8_update` is linear. -/
theorem crc8Update_xor (c b c' b' : Byte) :
    crc8Update (c ^^^ c') (b ^^^ b') = crc8Update c b ^^^ crc8Update c' b' := by
  have h : c ^^^ c' ^^^ (b ^^^ b') = (c ^^^ b) ^^^ (c' ^^^ b') := by
    rw [BitVec.xor_assoc, BitVec.xor_assoc, ← BitVec.xor_assoc c' b, BitVec.xor_comm c' b, BitVec.xor_assoc b]
  simp only [crc8Update, h, crcShift_xor]

/-- One update sends only equal bytes to zero: `crc8_update(c, b) = 0` exactly when `c = b`. -/
theorem crc8Update_eq_zero_iff (c b : Byte) : crc8Update c b = 0#8 ↔ c = b := by
  have table : ∀ x : Byte, crc8Update 0#8 x = 0#8 ↔ x = 0#8 := by decide +kernel
  rw [crc8Update_eq_zero_seed, table, BitVec.xor_eq_zero_iff]

@[simp] theorem crc8_nil (s : Byte) : crc8 [] s = s := rfl

@[simp] theorem crc8_cons (b : Byte) (rest : List Byte) (s : Byte) : crc8 (b :: rest) s = crc8 rest (crc8Update s b) := rfl

/-- The running seed makes the computation incremental. -/
theorem crc8_append (a b : List Byte) (s : Byte) : crc8 (a ++ b) s = crc8 b (crc8 a s) := by
  induction a generalizing s with
  | nil => rfl
  | cons x rest ih => simp [ih]

end Sys2Proof.Machine
end

