-- ==== Sys2Proof/Laws/Decode.lean ====
section
/-! SUPPORT. The fields of a command word built from an op and an argument, and a word rebuilt from its fields. -/

namespace Sys2Proof

@[simp] theorem opField_commandWord (op : BitVec 7) (arg : Nine) : opField (commandWord op arg) = op := by
  unfold opField commandWord; exact BitVec.extractLsb'_append_eq_left

@[simp] theorem argField_commandWord (op : BitVec 7) (arg : Nine) : argField (commandWord op arg) = arg := by
  unfold argField commandWord; exact BitVec.extractLsb'_append_eq_right

/-- A word is its two fields put together (R75). -/
theorem commandWord_fields (w : Word) : commandWord (opField w) (argField w) = w := by
  unfold commandWord opField argField
  rw [BitVec.extractLsb'_append_extractLsb'_eq_extractLsb' (by rfl)]
  simp

/-- Decoding a word built from fields looks at the fields alone. -/
theorem decode_commandWord (op : BitVec 7) (arg : Nine) : decode (commandWord op arg) = decodeFields op arg := by
  simp [decode]

/-- A byte operand's argument field has bit 8 clear (R76). -/
@[simp] theorem byteArg_reserved (b : Byte) : (byteArg b)[8] = false := by
  revert b; decide +kernel

/-- A byte operand's argument field gives the byte back. -/
@[simp] theorem byteArg_byte (b : Byte) : (byteArg b).setWidth 8 = b := by
  revert b; decide +kernel

end Sys2Proof
end

