-- ==== Sys2Proof/Laws/State.lean ====
section
/-! SUPPORT. One lemma per field per named update of State, and the unit operations of Machine/Ops.lean as equations. -/

namespace Sys2Proof.Machine

@[simp] theorem State.setDec_dec (s : State) (d : DecUnit) : (s.setDec d).dec = d := rfl
@[simp] theorem State.setDec_enc (s : State) (d : DecUnit) : (s.setDec d).enc = s.enc := rfl
@[simp] theorem State.setDec_crcAcc (s : State) (d : DecUnit) : (s.setDec d).crcAcc = s.crcAcc := rfl
@[simp] theorem State.setDec_pending (s : State) (d : DecUnit) : (s.setDec d).pending = s.pending := rfl
@[simp] theorem State.setDec_responses (s : State) (d : DecUnit) : (s.setDec d).responses = s.responses := rfl

@[simp] theorem State.setEnc_dec (s : State) (e : EncUnit) : (s.setEnc e).dec = s.dec := rfl
@[simp] theorem State.setEnc_enc (s : State) (e : EncUnit) : (s.setEnc e).enc = e := rfl
@[simp] theorem State.setEnc_crcAcc (s : State) (e : EncUnit) : (s.setEnc e).crcAcc = s.crcAcc := rfl
@[simp] theorem State.setEnc_pending (s : State) (e : EncUnit) : (s.setEnc e).pending = s.pending := rfl
@[simp] theorem State.setEnc_responses (s : State) (e : EncUnit) : (s.setEnc e).responses = s.responses := rfl

@[simp] theorem State.setCrcAcc_dec (s : State) (c : Byte) : (s.setCrcAcc c).dec = s.dec := rfl
@[simp] theorem State.setCrcAcc_enc (s : State) (c : Byte) : (s.setCrcAcc c).enc = s.enc := rfl
@[simp] theorem State.setCrcAcc_crcAcc (s : State) (c : Byte) : (s.setCrcAcc c).crcAcc = c := rfl
@[simp] theorem State.setCrcAcc_pending (s : State) (c : Byte) : (s.setCrcAcc c).pending = s.pending := rfl
@[simp] theorem State.setCrcAcc_responses (s : State) (c : Byte) : (s.setCrcAcc c).responses = s.responses := rfl

@[simp] theorem State.setPending_dec (s : State) (p : List PortEvent) : (s.setPending p).dec = s.dec := rfl
@[simp] theorem State.setPending_enc (s : State) (p : List PortEvent) : (s.setPending p).enc = s.enc := rfl
@[simp] theorem State.setPending_crcAcc (s : State) (p : List PortEvent) : (s.setPending p).crcAcc = s.crcAcc := rfl
@[simp] theorem State.setPending_pending (s : State) (p : List PortEvent) : (s.setPending p).pending = p := rfl
@[simp] theorem State.setPending_responses (s : State) (p : List PortEvent) : (s.setPending p).responses = s.responses := rfl

@[simp] theorem State.respond_dec (s : State) (r : Reply) : (s.respond r).dec = s.dec := rfl
@[simp] theorem State.respond_enc (s : State) (r : Reply) : (s.respond r).enc = s.enc := rfl
@[simp] theorem State.respond_crcAcc (s : State) (r : Reply) : (s.respond r).crcAcc = s.crcAcc := rfl
@[simp] theorem State.respond_pending (s : State) (r : Reply) : (s.respond r).pending = s.pending := rfl
@[simp] theorem State.respond_responses (s : State) (r : Reply) : (s.respond r).responses = s.responses ++ [responseWord r] := rfl

@[simp] theorem resetRegisters_dec (s : State) : (resetRegisters s).dec = State.reset.dec := rfl
@[simp] theorem resetRegisters_enc (s : State) : (resetRegisters s).enc = State.reset.enc := rfl
@[simp] theorem resetRegisters_crcAcc (s : State) : (resetRegisters s).crcAcc = State.reset.crcAcc := rfl
@[simp] theorem resetRegisters_pending (s : State) : (resetRegisters s).pending = s.pending := rfl
@[simp] theorem resetRegisters_responses (s : State) : (resetRegisters s).responses = s.responses := rfl
@[simp] theorem respondIllegal_dec (s : State) : (respondIllegal s).dec = s.dec := rfl
@[simp] theorem respondIllegal_enc (s : State) : (respondIllegal s).enc = s.enc := rfl
@[simp] theorem respondIllegal_crcAcc (s : State) : (respondIllegal s).crcAcc = s.crcAcc := rfl
@[simp] theorem respondIllegal_pending (s : State) : (respondIllegal s).pending = s.pending := rfl
@[simp] theorem respondIllegal_responses (s : State) : (respondIllegal s).responses = s.responses ++ [responseWord (plainReply .illegal)] := rfl

/-- Two states are equal when every field is. -/
theorem State.ext_fields {s t : State} (hd : s.dec = t.dec) (he : s.enc = t.enc) (hc : s.crcAcc = t.crcAcc)
    (hp : s.pending = t.pending) (hr : s.responses = t.responses) : s = t := by
  cases s; cases t; cases hd; cases he; cases hc; cases hp; cases hr; rfl

/-- A decoder operation completes, with its own effect on the decoder and one response. -/
theorem onDec_eq (f : DecUnit → DecUnit × Reply) (s : State) :
    onDec f s = .next { s with dec := (f s.dec).1, responses := s.responses ++ [responseWord (f s.dec).2] } := rfl

/-- An encoder operation completes, with its own effect on the encoder and one response. -/
theorem onEnc_eq (f : EncUnit → EncUnit × Reply) (s : State) :
    onEnc f s = .next { s with enc := (f s.enc).1, responses := s.responses ++ [responseWord (f s.enc).2] } := rfl

/-- A checksum operation completes, with its own effect on `crc_acc` and one response. -/
theorem onCrc_eq (f : Byte → Byte × Reply) (s : State) :
    onCrc f s = .next { s with crcAcc := (f s.crcAcc).1, responses := s.responses ++ [responseWord (f s.crcAcc).2] } := rfl

/-- A read completes and changes nothing but the port's responses. -/
theorem onRead_eq (f : State → Reply) (s : State) :
    onRead f s = .next { s with responses := s.responses ++ [responseWord (f s)] } := rfl

end Sys2Proof.Machine
end

