-- ==== Sys2Proof/Laws/Exec.lean ====
section
/-! SUPPORT. What one operation and one step can do, said once: an operation reads and writes one unit's registers, hands back
one response and completes; a step takes one event. -/

namespace Sys2Proof.Machine

/-! What each operation is, over the shared operations of Machine/Ops.lean. -/

theorem exec_decByte (b : Byte) (s : State) : exec (.decByte b) s = onDec (decFeed Config.decBufMax b) s := rfl
theorem exec_decReset (s : State) : exec .decReset s = onDec decRestart s := rfl
theorem exec_decState (s : State) : exec .decState s = onRead (fun s => okReply (decStateBits s.dec.state)) s := rfl
theorem exec_decLen (s : State) : exec .decLen s = onRead (fun s => okReply s.dec.len) s := rfl
theorem exec_encBegin (c : Byte) (s : State) : exec (.encBegin c) s = onEnc (encStartLoad c) s := rfl
theorem exec_encPush (b : Byte) (s : State) : exec (.encPush b) s = onEnc (encAppend b) s := rfl
theorem exec_encGo (s : State) : exec .encGo s = onEnc encStartSequence s := rfl
theorem exec_encNext (s : State) : exec .encNext s = onEnc encProduce s := rfl
theorem exec_encAbort (s : State) : exec .encAbort s = onEnc encAbandon s := rfl
theorem exec_encState (s : State) : exec .encState s = onRead (fun s => okReply (encStateBits s.enc.pendValid s.enc.phase)) s := rfl
theorem exec_encLen (s : State) : exec .encLen s = onRead (fun s => okReply s.enc.len) s := rfl
theorem exec_crcSeed (v : Byte) (s : State) : exec (.crcSeed v) s = onCrc (crcLoad v) s := rfl
theorem exec_crcByte (b : Byte) (s : State) : exec (.crcByte b) s = onCrc (crcFold b) s := rfl
theorem exec_crcRead (s : State) : exec .crcRead s = onRead (fun s => okReply s.crcAcc) s := rfl
theorem exec_pktCmd (s : State) : exec .pktCmd s = onRead (fun s => gated s.dec.pktValid (okReply s.dec.pktCmd)) s := rfl
theorem exec_pktLen (s : State) : exec .pktLen s = onRead (fun s => gated s.dec.pktValid (okReply s.dec.pktLen)) s := rfl
theorem exec_pktByte (k : Nine) (s : State) : exec (.pktByte k) s = onRead (fun s => gated s.dec.pktValid (payloadReply k s.dec)) s := rfl
theorem exec_errExp (s : State) : exec .errExp s = onRead (fun s => gated s.dec.errValid (okReply s.dec.errExpected)) s := rfl
theorem exec_errRcv (s : State) : exec .errRcv s = onRead (fun s => gated s.dec.errValid (okReply s.dec.errReceived)) s := rfl

/-- Every operation of the decoder's unit is a function of the decoder's registers. -/
theorem exec_of_dec {i : Instr} (h : i.owner = .dec) : ∃ f, ∀ s, exec i s = onDec f s := by
  cases i <;> simp [Instr.owner] at h
  case decByte b => exact ⟨decFeed Config.decBufMax b, fun _ => rfl⟩
  case decReset => exact ⟨decRestart, fun _ => rfl⟩
  case decState => exact ⟨fun d => (d, okReply (decStateBits d.state)), fun _ => rfl⟩
  case decLen => exact ⟨fun d => (d, okReply d.len), fun _ => rfl⟩
  case pktCmd => exact ⟨fun d => (d, gated d.pktValid (okReply d.pktCmd)), fun _ => rfl⟩
  case pktLen => exact ⟨fun d => (d, gated d.pktValid (okReply d.pktLen)), fun _ => rfl⟩
  case pktByte k => exact ⟨fun d => (d, gated d.pktValid (payloadReply k d)), fun _ => rfl⟩
  case errExp => exact ⟨fun d => (d, gated d.errValid (okReply d.errExpected)), fun _ => rfl⟩
  case errRcv => exact ⟨fun d => (d, gated d.errValid (okReply d.errReceived)), fun _ => rfl⟩

/-- Every operation of the encoder's unit is a function of the encoder's registers. -/
theorem exec_of_enc {i : Instr} (h : i.owner = .enc) : ∃ f, ∀ s, exec i s = onEnc f s := by
  cases i <;> simp [Instr.owner] at h
  case encBegin c => exact ⟨encStartLoad c, fun _ => rfl⟩
  case encPush b => exact ⟨encAppend b, fun _ => rfl⟩
  case encGo => exact ⟨encStartSequence, fun _ => rfl⟩
  case encNext => exact ⟨encProduce, fun _ => rfl⟩
  case encAbort => exact ⟨encAbandon, fun _ => rfl⟩
  case encState => exact ⟨fun e => (e, okReply (encStateBits e.pendValid e.phase)), fun _ => rfl⟩
  case encLen => exact ⟨fun e => (e, okReply e.len), fun _ => rfl⟩

/-- Every operation of the checksum unit is a function of `crc_acc`. -/
theorem exec_of_crc {i : Instr} (h : i.owner = .crc) : ∃ f, ∀ s, exec i s = onCrc f s := by
  cases i <;> simp [Instr.owner] at h
  case crcSeed v => exact ⟨crcLoad v, fun _ => rfl⟩
  case crcByte b => exact ⟨crcFold b, fun _ => rfl⟩
  case crcRead => exact ⟨fun c => (c, okReply c), fun _ => rfl⟩

/-- Every operation completes: it keeps the port's waiting events and adds one response. -/
theorem exec_next (i : Instr) (s : State) :
    ∃ d e c r, exec i s = .next { dec := d, enc := e, crcAcc := c, pending := s.pending,
                                  responses := s.responses ++ [responseWord r] } := by
  cases h : i.owner with
  | dec => obtain ⟨f, hf⟩ := exec_of_dec h; exact ⟨_, _, _, _, hf s⟩
  | enc => obtain ⟨f, hf⟩ := exec_of_enc h; exact ⟨_, _, _, _, hf s⟩
  | crc => obtain ⟨f, hf⟩ := exec_of_crc h; exact ⟨_, _, _, _, hf s⟩

/-- With no event waiting nothing changes. -/
theorem step_of_empty {s : State} (h : s.pending = []) : step s = .next s := by
  simp [step, acceptNext, h]

/-- A legal word waiting at the port runs its operation, on the state without it. -/
theorem step_of_ok {s : State} {w : Word} {rest : List PortEvent} {i : Instr} (h : s.pending = .word w :: rest)
    (hd : decode w = .ok i) : step s = exec i (s.setPending rest) := by
  simp [step, acceptNext, h, acceptEvent, acceptWord, hd]

/-- An illegal word waiting at the port is answered ILLEGAL. -/
theorem step_of_error {s : State} {w : Word} {rest : List PortEvent} {e : Illegal} (h : s.pending = .word w :: rest)
    (hd : decode w = .error e) : step s = .next (respondIllegal (s.setPending rest)) := by
  simp [step, acceptNext, h, acceptEvent, acceptWord, hd]

/-- `rst` waiting at the port resets the registers. -/
theorem step_of_rst {s : State} {rest : List PortEvent} (h : s.pending = .rst :: rest) :
    step s = .next (resetRegisters (s.setPending rest)) := by
  simp [step, acceptNext, h, acceptEvent]

/-- Every step answers a next state. -/
theorem step_next (s : State) : ∃ t, step s = .next t := by
  rcases h : s.pending with _ | ⟨_ | _, rest⟩
  · exact ⟨s, step_of_empty h⟩
  · rename_i w
    cases hd : decode w with
    | ok i =>
      obtain ⟨d, e, c, r, hx⟩ := exec_next i (s.setPending rest)
      exact ⟨_, (step_of_ok h hd).trans hx⟩
    | error e => exact ⟨_, step_of_error h hd⟩
  · exact ⟨_, step_of_rst h⟩

/-- Running no step. -/
@[simp] theorem run_zero (s : State) : Host.Core.run Sys2Proof.core 0 s = .next s := rfl

/-- Running one step and then the rest. -/
theorem run_succ {s t : State} (n : Nat) (h : step s = .next t) :
    Host.Core.run Sys2Proof.core (n + 1) s = Host.Core.run Sys2Proof.core n t := by
  have general : ∀ (M : Host.Core) (a b : M.State), M.step a = .next b → M.run (n + 1) a = M.run n b := by
    intro M a b hab
    simp only [Host.Core.run, hab]
  exact general Sys2Proof.core s t h

end Sys2Proof.Machine
end

