-- ==== Sys2Proof/Laws/PerInstr.lean ====
section
/-! SUPPORT. Facts about every instruction as syntax, one lemma per constructor. The family OpcodeRow: the instruction is well
formed (R78), and its command word lies in the row of the opcode map (R77) that carries its mnemonic. -/

namespace Sys2Proof.Laws.OpcodeRow

/-- An instruction is well formed, and its word is in its own row. -/
def Statement (i : Instr) : Prop :=
  i.wf = true ∧ ∃ r ∈ opcodeRows, r.mnemonic = mnemonicOf i ∧ r.selects (encode i) = true

theorem decByte (b : Byte) : Statement (.decByte b) := by
  revert b
  have h : ∀ b : Byte, (Instr.decByte b).wf = true ∧ (opcodeRows[0]).selects (encode (.decByte b)) = true := by decide +kernel
  exact fun b => ⟨(h b).1, opcodeRows[0], by decide, rfl, (h b).2⟩

theorem decReset : Statement .decReset := by
  refine ⟨by decide, opcodeRows[1], by decide, by decide, by decide⟩

theorem decState : Statement .decState := by
  refine ⟨by decide, opcodeRows[2], by decide, by decide, by decide⟩

theorem decLen : Statement .decLen := by
  refine ⟨by decide, opcodeRows[3], by decide, by decide, by decide⟩

theorem encBegin (b : Byte) : Statement (.encBegin b) := by
  revert b
  have h : ∀ b : Byte, (Instr.encBegin b).wf = true ∧ (opcodeRows[4]).selects (encode (.encBegin b)) = true := by decide +kernel
  exact fun b => ⟨(h b).1, opcodeRows[4], by decide, rfl, (h b).2⟩

theorem encPush (b : Byte) : Statement (.encPush b) := by
  revert b
  have h : ∀ b : Byte, (Instr.encPush b).wf = true ∧ (opcodeRows[5]).selects (encode (.encPush b)) = true := by decide +kernel
  exact fun b => ⟨(h b).1, opcodeRows[5], by decide, rfl, (h b).2⟩

theorem encGo : Statement .encGo := by
  refine ⟨by decide, opcodeRows[6], by decide, by decide, by decide⟩

theorem encNext : Statement .encNext := by
  refine ⟨by decide, opcodeRows[7], by decide, by decide, by decide⟩

theorem encAbort : Statement .encAbort := by
  refine ⟨by decide, opcodeRows[8], by decide, by decide, by decide⟩

theorem encState : Statement .encState := by
  refine ⟨by decide, opcodeRows[9], by decide, by decide, by decide⟩

theorem encLen : Statement .encLen := by
  refine ⟨by decide, opcodeRows[10], by decide, by decide, by decide⟩

theorem crcSeed (b : Byte) : Statement (.crcSeed b) := by
  revert b
  have h : ∀ b : Byte, (Instr.crcSeed b).wf = true ∧ (opcodeRows[11]).selects (encode (.crcSeed b)) = true := by decide +kernel
  exact fun b => ⟨(h b).1, opcodeRows[11], by decide, rfl, (h b).2⟩

theorem crcByte (b : Byte) : Statement (.crcByte b) := by
  revert b
  have h : ∀ b : Byte, (Instr.crcByte b).wf = true ∧ (opcodeRows[12]).selects (encode (.crcByte b)) = true := by decide +kernel
  exact fun b => ⟨(h b).1, opcodeRows[12], by decide, rfl, (h b).2⟩

theorem crcRead : Statement .crcRead := by
  refine ⟨by decide, opcodeRows[13], by decide, by decide, by decide⟩

theorem pktCmd : Statement .pktCmd := by
  refine ⟨by decide, opcodeRows[14], by decide, by decide, by decide⟩

theorem pktLen : Statement .pktLen := by
  refine ⟨by decide, opcodeRows[15], by decide, by decide, by decide⟩

theorem pktByte (k : Nine) : Statement (.pktByte k) := by
  revert k
  have h : ∀ k : Nine, (Instr.pktByte k).wf = true ∧ (opcodeRows[16]).selects (encode (.pktByte k)) = true := by decide +kernel
  exact fun k => ⟨(h k).1, opcodeRows[16], by decide, rfl, (h k).2⟩

theorem errExp : Statement .errExp := by
  refine ⟨by decide, opcodeRows[17], by decide, by decide, by decide⟩

theorem errRcv : Statement .errRcv := by
  refine ⟨by decide, opcodeRows[18], by decide, by decide, by decide⟩

end Sys2Proof.Laws.OpcodeRow
end

