-- ==== Sys2Proof/Laws/Response.lean ====
section
/-! SUPPORT. Response words as the numbers the spec writes (R80, R81). -/

namespace Sys2Proof.Machine

/-- A response word is `(code << 12) | data` (R80). -/
theorem responseWord_eq (c : ResultCode) (d : Nine) : responseWord ⟨c, d⟩ = responseOf (codeBits c).toNat d.toNat := by
  revert d; cases c <;> decide +kernel

/-- The code field of a response word (R80). -/
theorem responseCode_responseWord (r : Reply) : responseCode (responseWord r) = codeBits r.code := by
  obtain ⟨c, d⟩ := r
  revert d; cases c <;> decide +kernel

/-- The data field of a response word (R80). -/
theorem responseData_responseWord (r : Reply) : responseData (responseWord r) = r.data := by
  obtain ⟨c, d⟩ := r
  revert d; cases c <;> decide +kernel

/-- A register read answers OK with the register's value (R82). -/
theorem responseWord_okReply {w : Nat} (v : BitVec w) (h : w ≤ 9) : responseWord (okReply v) = responseOf 0 v.toNat := by
  rw [okReply, responseWord_eq, zext9, BitVec.toNat_setWidth_of_le h]; rfl

@[simp] theorem responseWord_ok : responseWord (plainReply .ok) = 0x0000#16 := by decide
@[simp] theorem responseWord_notDone : responseWord (plainReply .notDone) = 0x1000#16 := by decide
@[simp] theorem responseWord_checksumMismatch : responseWord (plainReply .checksumMismatch) = 0x2000#16 := by decide
@[simp] theorem responseWord_tooMuchData : responseWord (plainReply .tooMuchData) = 0x3000#16 := by decide
@[simp] theorem responseWord_tooSmall : responseWord (plainReply .tooSmall) = 0x4000#16 := by decide
@[simp] theorem responseWord_badState : responseWord (plainReply .badState) = 0x5000#16 := by decide
@[simp] theorem responseWord_seqEnd : responseWord (plainReply .seqEnd) = 0x6000#16 := by decide
@[simp] theorem responseWord_seqError : responseWord (plainReply .seqError) = 0x7000#16 := by decide
@[simp] theorem responseWord_full : responseWord (plainReply .full) = 0x8000#16 := by decide
@[simp] theorem responseWord_noData : responseWord (plainReply .noData) = 0x9000#16 := by decide
@[simp] theorem responseWord_range : responseWord (plainReply .range) = 0xA000#16 := by decide
@[simp] theorem responseWord_illegal : responseWord (plainReply .illegal) = 0xF000#16 := by decide

end Sys2Proof.Machine
end

