-- ==== Sys2Proof/Tests/Slice0.lean ====
section
/-! SUPPORT. The model's own tests. Every expected value is the spec's: the vectors and programs of 95_test_vectors.md, the
examples at the end of each instruction's rule, or a word written out by hand from rules R75 to R77. The theorems named
`witness_…` give, for an obligation with hypotheses, a concrete state and operands that meet them all, for each of its clauses
at the boundary values of its range. -/

namespace Sys2Proof.Tests

-- One theorem after another: many at once would each hold a thread while they wait for the kernel.
set_option Elab.async false

open Sys2Proof Sys2Proof.Machine

/-! Small states. -/

/-- An array that holds `l` and then zeros. -/
def bytesOf (n : Nat) (l : List Byte) : Bytes n := ⟨(l ++ List.replicate n 0#8).take n, by simp⟩

/-- A decoder in state `st` with `content` in its buffer, the rest as after reset. -/
def receiving (st : DecState) (content : List Byte) : State :=
  State.reset.setDec { DecUnit.reset with state := st, buf := bytesOf _ content, len := BitVec.ofNat 9 content.length }

/-- A machine that holds the packet (c, p), the rest as after reset. -/
def holding (c : Byte) (p : List Byte) : State :=
  State.reset.setDec
    { DecUnit.reset with pktValid := true, pktCmd := c, pktLen := BitVec.ofNat 9 p.length, pktPayload := bytesOf _ p }

/-- A machine that holds a captured mismatch, the rest as after reset. -/
def captured (expected received : Byte) : State :=
  State.reset.setDec { DecUnit.reset with errValid := true, errExpected := expected, errReceived := received }

/-- An encoder loaded with (c, p) at a phase, an index and a running checksum, the rest as after reset. -/
def sending (ph : EncPhase) (c : Byte) (p : List Byte) (idx : Nat) (crc : Byte) : State :=
  State.reset.setEnc { EncUnit.reset with
    phase := ph, cmd := c, payload := bytesOf _ p, len := BitVec.ofNat 9 p.length, idx := BitVec.ofNat 9 idx, crc := crc }

/-- The same encoder with the second byte of an escape pair owed. -/
def owing (pend : Byte) (s : State) : State := s.setEnc { s.enc with pend := pend, pendValid := true }

/-- The same machine with one event at its port. -/
def offered (e : PortEvent) (s : State) : State := s.setPending [e]

/-- The response to one command word, and what `view` sees in the state after it. -/
def answer {α : Type} (s : State) (w : Word) (view : State → α) : Option (Word × α) :=
  match step (presentWord w s) with
  | .next t => some (lastResponse t, view t)
  | .fault _ => none
  | .refused _ => none

/-! WellFormed: an ill-formed term for each check. -/

/-- R78 (a). -/
theorem test_wf_unassigned_op : (RawOp.mk 0x05#7 0#9).wf = false := by decide
/-- R78 (b), a B form with `arg[8]` = 1. -/
theorem test_wf_byte_reserved_bit : (RawOp.mk 0x01#7 0x100#9).wf = false := by decide
/-- R78 (b), an N form with an argument. -/
theorem test_wf_none_argument : (RawOp.mk 0x02#7 0x001#9).wf = false := by decide
/-- R192: no I-form word is illegal. -/
theorem test_wf_index_any : (RawOp.mk 0x1A#7 0x1FF#9).wf = true := by decide
/-- R84: LOAD requires n <= 256. -/
theorem test_wf_load_bound :
    (Pseudo.load 0x01#8 (List.replicate 257 0#8)).wf = false ∧ (Pseudo.load 0x01#8 (List.replicate 256 0#8)).wf = true := by
  decide +kernel

/-! Decode: one word for every row of R77, written out bit by bit, op in [15:9] and arg in [8:0]. -/

theorem test_decode_decByte : decode 0b0000001_0_11000000#16 = .ok (.decByte 0b11000000#8) := by decide
theorem test_decode_decReset : decode 0b0000010_000000000#16 = .ok .decReset := by decide
theorem test_decode_decState : decode 0b0000011_000000000#16 = .ok .decState := by decide
theorem test_decode_decLen : decode 0b0000100_000000000#16 = .ok .decLen := by decide
theorem test_decode_encBegin : decode 0b0001000_0_00000001#16 = .ok (.encBegin 0b00000001#8) := by decide
theorem test_decode_encPush : decode 0b0001001_0_11011011#16 = .ok (.encPush 0b11011011#8) := by decide
theorem test_decode_encGo : decode 0b0001010_000000000#16 = .ok .encGo := by decide
theorem test_decode_encNext : decode 0b0001011_000000000#16 = .ok .encNext := by decide
theorem test_decode_encAbort : decode 0b0001100_000000000#16 = .ok .encAbort := by decide
theorem test_decode_encState : decode 0b0001101_000000000#16 = .ok .encState := by decide
theorem test_decode_encLen : decode 0b0001110_000000000#16 = .ok .encLen := by decide
theorem test_decode_crcSeed : decode 0b0010000_0_00000111#16 = .ok (.crcSeed 0b00000111#8) := by decide
theorem test_decode_crcByte : decode 0b0010001_0_10000001#16 = .ok (.crcByte 0b10000001#8) := by decide
theorem test_decode_crcRead : decode 0b0010010_000000000#16 = .ok .crcRead := by decide
theorem test_decode_pktCmd : decode 0b0011000_000000000#16 = .ok .pktCmd := by decide
theorem test_decode_pktLen : decode 0b0011001_000000000#16 = .ok .pktLen := by decide
theorem test_decode_pktByte : decode 0b0011010_100000011#16 = .ok (.pktByte 0b100000011#9) := by decide
theorem test_decode_errExp : decode 0b0011100_000000000#16 = .ok .errExp := by decide
theorem test_decode_errRcv : decode 0b0011101_000000000#16 = .ok .errRcv := by decide

/-- The words of 95_test_vectors.md "Illegal words": all of them are rejected. -/
theorem test_decode_illegal_words :
    ([0x0000#16, 0x0A00#16, 0x1E00#16, 0x2600#16, 0x3600#16, 0x3C00#16, 0xFFFF#16, 0x0300#16, 0x03C0#16, 0x0401#16, 0x1700#16,
      0x1100#16, 0x1601#16, 0x2300#16, 0x2401#16, 0x3001#16].all fun w => (decode w).toOption.isNone) = true := by
  decide

/-- R85: ENC_PUSH 0xDB. -/
theorem test_encode_worked_example : encode (.encPush 0xDB#8) = 0x12DB#16 := by decide
/-- The same word as the opcode table numbers its bits, and a row's word with the bits above `nbits` dropped. -/
theorem test_decodeTableWord : decodeTableWord 16 0x12DB = some (.encPush 0xDB#8) ∧ decodeTableWord 16 0x0000 = none ∧
    decodeTableWord 16 0x11600 = some .encNext := by decide

/-! The checksum and the wire format. -/

/-- R171: the four vectors of the source, and the check value 0xF4 over "123456789". -/
theorem test_crc8_vectors :
    crc8 [0x01#8] 0#8 = 0x07#8 ∧ crc8 [0x01#8, 0x02#8] 0#8 = 0x1B#8 ∧ crc8 [0xC0#8, 0x02#8, 0x03#8] 0#8 = 0xAE#8 ∧
    crc8 [0xDB#8, 0x02#8, 0x03#8] 0#8 = 0xE0#8 ∧
    crc8 [0x31#8, 0x32#8, 0x33#8, 0x34#8, 0x35#8, 0x36#8, 0x37#8, 0x38#8, 0x39#8] 0#8 = 0xF4#8 := by decide +kernel
/-- V4: frames with escapes in the command, the payload and the checksum. -/
theorem test_frame_escapes :
    frame 0xDB#8 [0xC0#8, 0xDB#8] = [0xC0#8, 0xDB#8, 0xDD#8, 0xDB#8, 0xDC#8, 0xDB#8, 0xDD#8, 0x21#8, 0xC0#8] ∧
    frame 0x41#8 [] = [0xC0#8, 0x41#8, 0xDB#8, 0xDC#8, 0xC0#8] := by decide +kernel
/-- R175: leading zero bytes do not change a zero accumulator. -/
theorem test_crc8_zeros (n : Nat) : crc8 (List.replicate n 0#8) 0#8 = 0#8 := by
  induction n with
  | zero => rfl
  | succ n ih => rw [List.replicate_succ, crc8, show crc8Update 0#8 0#8 = 0#8 by decide, ih]

/-! One step of each operation. -/

/-- V1: the trailing delimiter of `c0 db dc 02 03 ae c0`. -/
theorem test_decByte_packet_ready :
    answer (receiving .inPacket [0xC0#8, 0x02#8, 0x03#8, 0xAE#8]) 0x02C0#16
      (fun t => (t.dec.state, t.dec.pktValid, t.dec.pktCmd, t.dec.pktPayload.cells.take 2))
      = some (0x0002#16, .idle, true, 0xC0#8, [0x02#8, 0x03#8]) := by decide +kernel
/-- D1: the trailing delimiter of `c0 01 08 c0`. -/
theorem test_decByte_mismatch :
    answer (receiving .inPacket [0x01#8, 0x08#8]) 0x02C0#16
      (fun t => (t.dec.state, t.dec.errValid, t.dec.errExpected, t.dec.errReceived))
      = some (0x2000#16, .idle, true, 0x07#8, 0x08#8) := by decide +kernel
/-- R112's example. -/
theorem test_decReset : answer (receiving .inPacket [0x01#8]) 0x0400#16 (fun t => (t.dec.state, t.dec.len))
    = some (0x0000#16, .idle, 0#9) := by decide +kernel
/-- R113's example. -/
theorem test_decState : answer (receiving .inEscape [0x01#8]) 0x0600#16 (fun t => t.dec.state)
    = some (0x0002#16, .inEscape) := by decide +kernel
/-- R114's example: the length stays after the packet is ready (D22). -/
theorem test_decLen : answer (receiving .idle [0x01#8, 0x02#8, 0x1B#8]) 0x0800#16 (fun t => t.dec.len)
    = some (0x0003#16, 3#9) := by decide +kernel
/-- R141's example. -/
theorem test_encBegin : answer State.reset 0x1001#16 (fun t => (t.enc.phase, t.enc.cmd, t.enc.len))
    = some (0x0000#16, .loading, 0x01#8, 0#9) := by decide +kernel
/-- E2: a second ENC_BEGIN. -/
theorem test_encBegin_while_loading : answer (sending .loading 0x01#8 [] 0 0#8) 0x1002#16 (fun t => t.enc.cmd)
    = some (0x7000#16, 0x01#8) := by decide +kernel
/-- R142's example. -/
theorem test_encPush : answer (sending .loading 0x01#8 [] 0 0#8) 0x1202#16 (fun t => (t.enc.len, t.enc.payload.cells.take 1))
    = some (0x0001#16, 1#9, [0x02#8]) := by decide +kernel
/-- E3: the 257th push. -/
theorem test_encPush_full : answer (sending .loading 0x07#8 (List.replicate 256 0xFF#8) 0 0#8) 0x1200#16 (fun t => t.enc.len)
    = some (0x8000#16, 256#9) := by decide +kernel
/-- R143's example. -/
theorem test_encGo : answer (sending .loading 0x01#8 [] 7 0x55#8) 0x1400#16 (fun t => (t.enc.phase, t.enc.idx, t.enc.crc))
    = some (0x0000#16, .start, 0#9, 0x00#8) := by decide +kernel
/-- E1: ENC_GO from reset. -/
theorem test_encGo_idle : answer State.reset 0x1400#16 (fun t => t.enc.phase) = some (0x7000#16, .idle) := by decide +kernel
/-- Program 2, the second ENC_NEXT: the first byte of an escape pair. -/
theorem test_encNext_escape : answer (sending .cmd 0xC0#8 [0x02#8, 0x03#8] 0 0#8) 0x1600#16
      (fun t => (t.enc.phase, t.enc.pendValid, t.enc.pend, t.enc.crc))
    = some (0x00DB#16, .cmd, true, 0xDC#8, 0x4E#8) := by decide +kernel
/-- Program 2, the fourth ENC_NEXT: a payload byte; the checksum covers C0 02 after it. -/
theorem test_encNext_payload : answer (sending .payload 0xC0#8 [0x02#8, 0x03#8] 0 0x4E#8) 0x1600#16
      (fun t => (t.enc.phase, t.enc.idx, t.enc.crc))
    = some (0x0002#16, .payload, 1#9, 0xE3#8) := by decide +kernel
/-- E4: an abort in mid-escape drops the byte owed. -/
theorem test_encAbort : answer (owing 0xDC#8 (sending .cmd 0xC0#8 [] 0 0x4E#8)) 0x1800#16
      (fun t => (t.enc.phase, t.enc.pendValid)) = some (0x0000#16, .idle, false) := by decide +kernel
/-- R148's example. -/
theorem test_encState : answer (owing 0xDC#8 (sending .cmd 0xC0#8 [] 0 0x4E#8)) 0x1A00#16 (fun t => t.enc.phase)
    = some (0x000B#16, .cmd) := by decide +kernel
/-- R149's example. -/
theorem test_encLen : answer (sending .loading 0x01#8 [0x02#8, 0x03#8] 0 0#8) 0x1C00#16 (fun t => t.enc.len)
    = some (0x0002#16, 2#9) := by decide +kernel
/-- R174's example. -/
theorem test_crcSeed : answer State.reset 0x2007#16 (fun t => t.crcAcc) = some (0x0000#16, 0x07#8) := by decide +kernel
/-- R175's example. -/
theorem test_crcByte : answer (State.reset.setCrcAcc 0x07#8) 0x2202#16 (fun t => t.crcAcc) = some (0x001B#16, 0x1B#8) := by
  decide +kernel
/-- R176's example. -/
theorem test_crcRead : answer (State.reset.setCrcAcc 0xAE#8) 0x2400#16 (fun t => t.crcAcc) = some (0x00AE#16, 0xAE#8) := by
  decide +kernel
/-- R190's example. -/
theorem test_pktCmd : answer (holding 0xDB#8 [0x02#8, 0x03#8]) 0x3000#16 (fun t => t.dec.pktValid) = some (0x00DB#16, true) := by
  decide +kernel
/-- P-5: the largest length needs all nine data bits. -/
theorem test_pktLen : answer (holding 0x01#8 (List.replicate 256 0#8)) 0x3200#16 (fun t => t.dec.pktLen)
    = some (0x0100#16, 256#9) := by decide +kernel
/-- R192's example, index 0. -/
theorem test_pktByte : answer (holding 0x01#8 [0x02#8]) 0x3400#16 (fun t => t.dec.pktLen) = some (0x0002#16, 1#9) := by
  decide +kernel
/-- R192's example, index 1. -/
theorem test_pktByte_range : answer (holding 0x01#8 [0x02#8]) 0x3401#16 (fun t => t.dec.pktLen) = some (0xA000#16, 1#9) := by
  decide +kernel
/-- R193's example. -/
theorem test_errExp : answer (captured 0x07#8 0x08#8) 0x3800#16 (fun t => t.dec.errValid) = some (0x0007#16, true) := by
  decide +kernel
/-- R194's example. -/
theorem test_errRcv : answer (captured 0x07#8 0x08#8) 0x3A00#16 (fun t => t.dec.errValid) = some (0x0008#16, true) := by
  decide +kernel
/-! The assembler's lines (R83, R84), as the listings of 95_test_vectors.md print them. -/

theorem test_readLine_hex : readLine "DEC_BYTE 0xC0    -> 1000".toList = .error .operandCount ∧
    readLine "DEC_BYTE 0xC0    ; frame start".toList = .ok (.op (.decByte 0xC0#8)) := by decide +kernel
theorem test_readLine_decimal : readLine "PKT_BYTE 3".toList = .ok (.op (.pktByte 3#9)) := by decide +kernel
theorem test_readLine_feed : readLine "FEED c0 01 07 c0".toList
    = .ok (.pseudo (.feed [0xC0#8, 0x01#8, 0x07#8, 0xC0#8])) := by decide +kernel
theorem test_readLine_load : readLine "LOAD 0x01, [0x02, 3]".toList = .ok (.pseudo (.load 0x01#8 [0x02#8, 0x03#8])) := by
  decide +kernel
theorem test_listingText : listingText (.decByte 0xC0#8) 0x1000#16 = "02C0  DEC_BYTE 0xC0 -> 1000".toList := by decide +kernel

/-! Witnesses: states and operands that meet the obligations' hypotheses. -/

theorem witness_DecodeAndEncodeAgree :
    decode 0x35FF#16 = .ok (.pktByte 0x1FF#9) ∧ encode (.pktByte 0x1FF#9) = 0x35FF#16 := by decide

theorem witness_WordSelectsOneRow :
    decode 0x02FF#16 = .ok (.decByte 0xFF#8) ∧ ⟨"DEC_BYTE", .byte, 0x0200#16, 0xFF00#16⟩ ∈ opcodeRows ∧
    (0x02FF#16 : Word) &&& 0xFF00#16 = 0x0200#16 := by decide

/-- The three kinds of illegal word at the ends of their ranges, and the legal words beside them. -/
theorem witness_IllegalWordsAnswered :
    (offered (.word (0x05#7 ++ 0#9)) State.reset).pending = .word (0x05#7 ++ 0#9) :: [] ∧
    ([0x00#7, 0x05#7, 0x07#7, 0x0F#7, 0x13#7, 0x17#7, 0x1B#7, 0x1E#7, 0x7F#7].all fun op =>
      decide (op.toNat = 0x00 ∨ (0x05 ≤ op.toNat ∧ op.toNat ≤ 0x07) ∨ op.toNat = 0x0F ∨
        (0x13 ≤ op.toNat ∧ op.toNat ≤ 0x17) ∨ op.toNat = 0x1B ∨ 0x1E ≤ op.toNat)) = true ∧
    (0x11#7).toNat ∈ [0x01, 0x08, 0x09, 0x10, 0x11] ∧ (0x100#9).getLsbD 8 = true ∧ (0x0FF#9).getLsbD 8 = false ∧
    (0x1D#7).toNat ∉ [0x01, 0x08, 0x09, 0x10, 0x11] ∧ (0x1D#7).toNat ≠ 0x1A ∧ (0x1FF#9) ≠ 0#9 ∧ (0x001#9) ≠ 0#9 := by
  decide

theorem witness_StepTakesOldestEvent :
    State.reset.pending = [] ∧
    (offered (.word 0x0400#16) State.reset).pending = .word 0x0400#16 :: [] ∧ decode 0x0400#16 = .ok .decReset ∧
    (offered (.word 0x0401#16) State.reset).pending = .word 0x0401#16 :: [] ∧
    decode 0x0401#16 = .error (.reservedArg 0x02#7 1#9) ∧
    (offered .rst State.reset).pending = .rst :: [] := by decide

theorem witness_EveryWordAnsweredOnce : (offered (.word 0x0000#16) State.reset).pending = .word 0x0000#16 :: [] := by decide

theorem witness_ResetSetsStatedRegisters :
    (offered .rst (receiving .inEscape [0x01#8])).pending = .rst :: [] := by decide

theorem witness_IdleIgnoresAllButDelimiter :
    State.reset.dec.state = .idle ∧ (0xC0#8 : Byte) = 0xC0#8 ∧ (0xBF#8 : Byte) ≠ 0xC0#8 ∧ (0xC1#8 : Byte) ≠ 0xC0#8 := by decide

/-- The buffer exactly full (R115 (b)). -/
theorem witness_FullBufferAbortsFrame :
    (receiving .inPacket (List.replicate 259 0#8)).dec.state = .inPacket ∧
    259 ≤ (receiving .inPacket (List.replicate 259 0#8)).dec.len.toNat := by decide +kernel

theorem witness_EscapeByteEntersEscape :
    (receiving .inPacket (List.replicate 258 0#8)).dec.state = .inPacket ∧
    (receiving .inPacket (List.replicate 258 0#8)).dec.len.toNat < 259 := by decide +kernel

theorem witness_LiteralByteIsAppended :
    (receiving .inPacket (List.replicate 258 0#8)).dec.state = .inPacket ∧
    (receiving .inPacket (List.replicate 258 0#8)).dec.len.toNat < 259 ∧
    (0xDC#8 : Byte) ≠ 0xC0#8 ∧ (0xDC#8 : Byte) ≠ 0xDB#8 := by decide +kernel

theorem witness_ByteAfterEscapeIsLiteral :
    (receiving .inEscape (List.replicate 258 0#8)).dec.state = .inEscape ∧
    (receiving .inEscape (List.replicate 258 0#8)).dec.len.toNat ≤ 258 := by decide +kernel

theorem witness_InvalidStateRecovers : (receiving .invalid [0x01#8]).dec.state = .invalid := by decide

theorem witness_EmptyFrameIsNoise :
    (receiving .inPacket []).dec.state = .inPacket ∧ (receiving .inPacket []).dec.len = 0#9 := by decide

theorem witness_OneByteFrameIsTooSmall :
    (receiving .inPacket [0x01#8]).dec.state = .inPacket ∧ (receiving .inPacket [0x01#8]).dec.len = 1#9 := by decide

/-- The empty payload: `c0 01 07 c0` of V1. -/
theorem witness_ValidFrameHandsOffPacket :
    (receiving .inPacket [0x01#8, 0x07#8]).dec.state = .inPacket ∧ ([] : List Byte).length ≤ 256 ∧
    (receiving .inPacket [0x01#8, 0x07#8]).dec.len.toNat = ([] : List Byte).length + 2 ∧
    (receiving .inPacket [0x01#8, 0x07#8]).dec.buf.cells.take (([] : List Byte).length + 2) = 0x01#8 :: ([] ++ [0x07#8]) ∧
    crc8 (0x01#8 :: []) 0x00#8 = 0x07#8 := by decide +kernel

/-- The longest payload: the command 0x00 and 256 zeros, checksum 0x00. -/
theorem witness_ValidFrameHandsOffPacket_longest :
    let p : List Byte := List.replicate 256 0#8
    let s := receiving .inPacket (0x00#8 :: (p ++ [0x00#8]))
    s.dec.state = .inPacket ∧ p.length ≤ 256 ∧ s.dec.len.toNat = p.length + 2 ∧
    s.dec.buf.cells.take (p.length + 2) = 0x00#8 :: (p ++ [0x00#8]) ∧ crc8 (0x00#8 :: p) 0x00#8 = 0x00#8 :=
  ⟨by decide, by decide +kernel, by decide +kernel, by decide +kernel, test_crc8_zeros 257⟩

/-- D1: `c0 01 08 c0`, the empty payload. -/
theorem witness_BadChecksumIsCaptured :
    (receiving .inPacket [0x01#8, 0x08#8]).dec.state = .inPacket ∧ ([] : List Byte).length ≤ 256 ∧
    (receiving .inPacket [0x01#8, 0x08#8]).dec.len.toNat = ([] : List Byte).length + 2 ∧
    (receiving .inPacket [0x01#8, 0x08#8]).dec.buf.cells.take (([] : List Byte).length + 2) = 0x01#8 :: ([] ++ [0x08#8]) ∧
    crc8 (0x01#8 :: []) 0x00#8 ≠ 0x08#8 := by decide +kernel

theorem witness_BadChecksumIsCaptured_longest :
    let p : List Byte := List.replicate 256 0#8
    let s := receiving .inPacket (0x00#8 :: (p ++ [0x01#8]))
    s.dec.state = .inPacket ∧ p.length ≤ 256 ∧ s.dec.len.toNat = p.length + 2 ∧
    s.dec.buf.cells.take (p.length + 2) = 0x00#8 :: (p ++ [0x01#8]) ∧ crc8 (0x00#8 :: p) 0x00#8 ≠ 0x01#8 :=
  ⟨by decide, by decide +kernel, by decide +kernel, by decide +kernel,
    fun h => absurd ((test_crc8_zeros 257).symm.trans h) (by decide)⟩

theorem witness_NoiseInIdleIsHarmless :
    State.reset.dec.state = .idle ∧ 0xC0#8 ∉ ([0xDB#8, 0xDC#8, 0x01#8] : List Byte) := by decide

/-- The shortest and the longest payload, from IDLE and from IN_PACKET with an empty buffer. -/
theorem witness_FedFrameDeliversPacket :
    ([] : List Byte).length ≤ 256 ∧ (List.replicate 256 0xC0#8 : List Byte).length ≤ 256 ∧ State.reset.dec.state = .idle ∧
    (receiving .inPacket []).dec.state = .inPacket ∧ (receiving .inPacket []).dec.len = 0#9 := by decide +kernel

/-- A partial frame of one byte, and one that fills the buffer. -/
theorem witness_CutFrameLosesNextFrame :
    (receiving .inPacket [0x01#8]).dec.state = .inPacket ∧ (receiving .inPacket [0x01#8]).dec.len ≠ 0#9 ∧
    (∃ u, exec (.decByte 0xC0#8) (receiving .inPacket [0x01#8]) = .next u) ∧
    (receiving .inPacket (List.replicate 259 0#8)).dec.state = .inPacket ∧
    (receiving .inPacket (List.replicate 259 0#8)).dec.len ≠ 0#9 ∧
    (∃ u, exec (.decByte 0xC0#8) (receiving .inPacket (List.replicate 259 0#8)) = .next u) :=
  ⟨by decide, by decide, ⟨_, rfl⟩, by decide +kernel, by decide +kernel, ⟨_, rfl⟩⟩

/-- The fullest buffer inside an escape pair meets both clauses. -/
theorem witness_TwoDelimitersResynchronise :
    DecInv (receiving .inEscape (List.replicate 258 0#8)).dec ∧ (List.replicate 256 0xDB#8 : List Byte).length ≤ 256 ∧
    (receiving .inEscape (List.replicate 258 0#8)).dec.state = .inEscape ∧
    (receiving .inEscape (List.replicate 258 0#8)).dec.len.toNat ≤ 258 ∧
    ∃ u v, exec (.decByte 0xC0#8) (receiving .inEscape (List.replicate 258 0#8)) = .next u ∧
      exec (.decByte 0xC0#8) u = .next v :=
  ⟨{ state_legal := by decide +kernel, len_le := by decide +kernel, escape_room := by decide +kernel
     pktLen_le := by decide +kernel },
   by decide +kernel, by decide +kernel, by decide +kernel, _, _, rfl, rfl⟩

/-- The emptiest: an abort right after the first ESCAPE of a frame. -/
theorem witness_TwoDelimitersResynchronise_empty :
    (receiving .inEscape []).dec.state = .inEscape ∧ (receiving .inEscape []).dec.len.toNat ≤ 258 ∧
    ∃ u v, exec (.decByte 0xC0#8) (receiving .inEscape []) = .next u ∧ exec (.decByte 0xC0#8) u = .next v :=
  ⟨by decide, by decide, _, _, rfl, rfl⟩

/-- R102's example: 257 payload bytes 0x11; and 258. -/
theorem witness_OverlongPayloadRejected :
    State.reset.dec.state = .idle ∧ (List.replicate 257 0x11#8 : List Byte).length = 257 ∧
    258 ≤ (List.replicate 258 0x11#8 : List Byte).length := by decide +kernel

/-- The smallest and the largest capacity, with the longest payload each accepts and the next one. -/
theorem witness_CapacityBoundsAcceptedPayload :
    (3 ≤ 3 ∧ 3 ≤ 259 ∧ ([] : List Byte).length + 3 ≤ 3 ∧ ¬([0#8] : List Byte).length + 3 ≤ 3) ∧
    (3 ≤ 259 ∧ 259 ≤ 259 ∧ (List.replicate 256 0#8 : List Byte).length + 3 ≤ 259 ∧
      ¬(List.replicate 257 0#8 : List Byte).length + 3 ≤ 259) ∧
    DecUnit.reset.state = .idle := by decide +kernel

theorem witness_EncBeginStartsLoading :
    State.reset.enc.phase = .idle ∧ (sending .loading 0x01#8 [] 0 0#8).enc.phase ≠ .idle ∧
    (sending .invalid 0x01#8 [] 0 0#8).enc.phase ≠ .idle := by decide

/-- Not loading; full; and the first and the last push that fit. -/
theorem witness_EncPushAppendsByte :
    State.reset.enc.phase ≠ .loading ∧
    ((sending .loading 0x07#8 (List.replicate 256 0xFF#8) 0 0#8).enc.phase = .loading ∧
      (sending .loading 0x07#8 (List.replicate 256 0xFF#8) 0 0#8).enc.len.toNat = 256) ∧
    ((sending .loading 0x07#8 [] 0 0#8).enc.phase = .loading ∧ (sending .loading 0x07#8 [] 0 0#8).enc.len.toNat < 256) ∧
    ((sending .loading 0x07#8 (List.replicate 255 0xFF#8) 0 0#8).enc.phase = .loading ∧
      (sending .loading 0x07#8 (List.replicate 255 0xFF#8) 0 0#8).enc.len.toNat < 256) := by decide +kernel

theorem witness_EncGoStartsSequence :
    (sending .loading 0x01#8 [] 0 0#8).enc.phase = .loading ∧ State.reset.enc.phase ≠ .loading := by decide

theorem witness_EncNextWithoutSequence :
    State.reset.enc.phase = .idle ∧ (sending .loading 0x01#8 [] 0 0#8).enc.phase = .loading ∧
    (sending .invalid 0x01#8 [] 0 0#8).enc.phase = .invalid := by decide

theorem witness_EncNextSendsDelimiters :
    ((sending .start 0x01#8 [] 0 0#8).enc.pendValid = false ∧ (sending .start 0x01#8 [] 0 0#8).enc.phase = .start) ∧
    ((sending .ending 0x01#8 [] 0 0#8).enc.pendValid = false ∧ (sending .ending 0x01#8 [] 0 0#8).enc.phase = .ending) := by
  decide

/-- The command bytes 0xDC, 0xC0 and 0xDB with nothing owed, and a byte owed; with an empty payload and with one byte. -/
theorem witness_EncNextSendsCommand :
    ((sending .cmd 0xDC#8 [] 0 0#8).enc.phase = .cmd ∧ (sending .cmd 0xDC#8 [] 0 0#8).enc.pendValid = false ∧
      (sending .cmd 0xDC#8 [] 0 0#8).enc.cmd ≠ 0xC0#8 ∧ (sending .cmd 0xDC#8 [] 0 0#8).enc.cmd ≠ 0xDB#8) ∧
    ((sending .cmd 0xC0#8 [0x01#8] 0 0#8).enc.phase = .cmd ∧ (sending .cmd 0xC0#8 [0x01#8] 0 0#8).enc.pendValid = false ∧
      (sending .cmd 0xC0#8 [0x01#8] 0 0#8).enc.cmd = 0xC0#8) ∧
    ((sending .cmd 0xDB#8 [0x01#8] 0 0#8).enc.phase = .cmd ∧ (sending .cmd 0xDB#8 [0x01#8] 0 0#8).enc.pendValid = false ∧
      (sending .cmd 0xDB#8 [0x01#8] 0 0#8).enc.cmd = 0xDB#8) ∧
    ((owing 0xDD#8 (sending .cmd 0xDB#8 [] 0 0x0F#8)).enc.phase = .cmd ∧
      (owing 0xDD#8 (sending .cmd 0xDB#8 [] 0 0x0F#8)).enc.pendValid = true) := by decide +kernel

/-- The payload bytes 0xDC, 0xC0 and 0xDB with nothing owed, and a byte owed, each at the last index 255. -/
theorem witness_EncNextSendsPayloadByte :
    let at255 (v : Byte) : State := sending .payload 0x01#8 (List.replicate 255 0#8 ++ [v]) 255 0#8
    ([0xDC#8, 0xC0#8, 0xDB#8].all fun v => decide ((at255 v).enc.phase = .payload ∧
      (at255 v).enc.payload.cells[(at255 v).enc.idx.toNat]? = some v ∧ (at255 v).enc.pendValid = false)) = true ∧
    (0xDC#8 : Byte) ≠ 0xC0#8 ∧ (0xDC#8 : Byte) ≠ 0xDB#8 ∧
    (owing 0xDC#8 (at255 0xC0#8)).enc.phase = .payload ∧ (owing 0xDC#8 (at255 0xC0#8)).enc.pendValid = true ∧
    (owing 0xDC#8 (at255 0xC0#8)).enc.payload.cells[(owing 0xDC#8 (at255 0xC0#8)).enc.idx.toNat]? = some 0xC0#8 := by
  decide +kernel

theorem witness_EncNextSendsChecksum :
    ((sending .crc 0x01#8 [] 0 0x07#8).enc.phase = .crc ∧ (sending .crc 0x01#8 [] 0 0x07#8).enc.pendValid = false ∧
      (sending .crc 0x01#8 [] 0 0x07#8).enc.crc ≠ 0xC0#8 ∧ (sending .crc 0x01#8 [] 0 0x07#8).enc.crc ≠ 0xDB#8) ∧
    ((sending .crc 0x41#8 [] 0 0xC0#8).enc.phase = .crc ∧ (sending .crc 0x41#8 [] 0 0xC0#8).enc.pendValid = false ∧
      (sending .crc 0x41#8 [] 0 0xC0#8).enc.crc = 0xC0#8) ∧
    ((sending .crc 0x44#8 [] 0 0xDB#8).enc.phase = .crc ∧ (sending .crc 0x44#8 [] 0 0xDB#8).enc.pendValid = false ∧
      (sending .crc 0x44#8 [] 0 0xDB#8).enc.crc = 0xDB#8) ∧
    ((owing 0xDC#8 (sending .crc 0x41#8 [] 0 0xC0#8)).enc.phase = .crc ∧
      (owing 0xDC#8 (sending .crc 0x41#8 [] 0 0xC0#8)).enc.pendValid = true) := by decide +kernel

/-- In the middle of an escape pair of the command 0xC0. -/
theorem witness_EncNextSendsFirstByteOwed :
    EncInv (owing 0xDC#8 (sending .cmd 0xC0#8 [0x02#8] 0 0x4E#8)).enc ∧
    inSequence (owing 0xDC#8 (sending .cmd 0xC0#8 [0x02#8] 0 0x4E#8)).enc.phase = true :=
  ⟨{ phase_legal := by decide
     len_le := by decide
     idx_lt := by decide
     idx_le := by decide
     pend_phase := by decide
     pend_item := fun _ => ⟨0xC0#8, by decide +kernel, by decide⟩
     crc_folded := by decide +kernel }, by decide⟩

theorem witness_LoadedPacketDrainsAsFrame :
    ([] : List Byte).length ≤ 256 ∧ (List.replicate 256 0xC0#8 : List Byte).length ≤ 256 ∧ State.reset.enc.phase = .idle := by
  decide +kernel

theorem witness_LoopbackDeliversPacket :
    (List.replicate 256 0xDB#8 : List Byte).length ≤ 256 ∧ State.reset.enc.phase = .idle ∧ State.reset.dec.state = .idle := by
  decide +kernel

/-- R72's clauses: the longest payload, 0xC0 at a frame's first and last byte, 0xDB before 0xDC. -/
theorem witness_FrameShapeOnWire :
    (List.replicate 256 0#8 : List Byte).length ≤ 256 ∧ (frame 0x41#8 [])[0]? = some 0xC0#8 ∧
    (frame 0x41#8 [])[4]? = some 0xC0#8 ∧ (frame 0x41#8 [])[2]? = some 0xDB#8 := by decide +kernel

/-- The content 01 07: the first bit of the command, the last bit of the checksum. -/
theorem witness_SingleBitErrorIsReported :
    let content : List Byte := [0x01#8, 0x07#8]
    2 ≤ content.length ∧ content.length ≤ 258 ∧ content.getLast? = some (crc8 content.dropLast 0x00#8) ∧
    (0 < content.length ∧ (7 : Nat) < 8 ∧ (receiving .inPacket [0x81#8, 0x07#8]).dec.state = .inPacket ∧
      (receiving .inPacket [0x81#8, 0x07#8]).dec.len.toNat = content.length ∧
      (receiving .inPacket [0x81#8, 0x07#8]).dec.buf.cells.take content.length
        = content.modify 0 (fun v => v ^^^ (1#8 <<< 7))) ∧
    (1 < content.length ∧ (0 : Nat) < 8 ∧ (receiving .inPacket [0x01#8, 0x06#8]).dec.state = .inPacket ∧
      (receiving .inPacket [0x01#8, 0x06#8]).dec.len.toNat = content.length ∧
      (receiving .inPacket [0x01#8, 0x06#8]).dec.buf.cells.take content.length
        = content.modify 1 (fun v => v ^^^ (1#8 <<< 0))) := by decide +kernel

/-- No packet; index 256 and index 255 of a 256-byte packet. -/
theorem witness_PacketReadout :
    State.reset.dec.pktValid = false ∧
    (holding 0x01#8 (List.replicate 256 0x11#8)).dec.pktValid = true ∧
    (holding 0x01#8 (List.replicate 256 0x11#8)).dec.pktLen.toNat ≤ (256#9).toNat ∧
    (255#9).toNat < (holding 0x01#8 (List.replicate 256 0x11#8)).dec.pktLen.toNat ∧
    (holding 0x01#8 (List.replicate 256 0x11#8)).dec.pktPayload.cells[(255#9).toNat]? = some 0x11#8 ∧
    (holding 0x01#8 (List.replicate 256 0x11#8)).dec.pktLen.toNat ≤ 256 := by decide +kernel

theorem witness_ErrorReadout :
    State.reset.dec.errValid = false ∧ (captured 0x07#8 0x08#8).dec.errValid = true := by decide

/-- The reset values the spec states, with other values in registers for which it states none. -/
def junkReset : State :=
  { State.reset with
    dec := { DecUnit.reset with
      buf := bytesOf _ [0xAA#8], pktCmd := 0x55#8, pktLen := 300#9, pktPayload := bytesOf _ [0xBB#8], errExpected := 0x12#8,
      errReceived := 0x34#8 }
    enc := { EncUnit.reset with
      pend := 0xCC#8, cmd := 0xDD#8, payload := bytesOf _ [0xEE#8], idx := 511#9, crc := 0x99#8 } }

theorem witness_SpecReset : SpecReset State.reset ∧ SpecReset junkReset :=
  ⟨{ dec_state := by decide, dec_len := by decide, pkt_valid := by decide, err_valid := by decide, enc_phase := by decide,
     enc_pend_valid := by decide, enc_len := by decide, crc_acc := by decide },
   { dec_state := by decide, dec_len := by decide, pkt_valid := by decide, err_valid := by decide, enc_phase := by decide,
     enc_pend_valid := by decide, enc_len := by decide, crc_acc := by decide }⟩

theorem witness_Inv : Inv (offered (.word 0x1001#16) State.reset) :=
  { dec := { state_legal := by decide, len_le := by decide, escape_room := by decide, pktLen_le := by decide }
    enc :=
      { phase_legal := by decide, len_le := by decide, idx_lt := by decide, idx_le := by decide, pend_phase := by decide
        pend_item := fun h => absurd h (by decide)
        crc_folded := by decide } }

theorem witness_InvariantsKeptByEveryStep :
    Inv (offered (.word 0x1001#16) State.reset) ∧ ∃ t, step (offered (.word 0x1001#16) State.reset) = .next t :=
  ⟨witness_Inv, ⟨_, rfl⟩⟩

theorem witness_InvariantsHoldAtReset : SpecReset junkReset := witness_SpecReset.2

theorem witness_UnitsCommute : (Instr.pktCmd).owner ≠ (Instr.crcByte 0x01#8).owner := by decide

theorem witness_ReadsChangeNothing :
    Instr.pktByte 511#9 ∈ [.decState, .decLen, .encState, .encLen, .crcRead, .pktCmd, .pktLen, .pktByte 511#9, .errExp, .errRcv] := by
  decide

/-- The two alternatives of the statement: an operation that leaves the packet, and the one that changes it. -/
theorem witness_PacketChangesOnlyOnOk :
    (∃ t, exec .decReset State.reset = .next t) ∧
    (∃ t, exec (.decByte 0xC0#8) (receiving .inPacket [0x01#8, 0x07#8]) = .next t) := ⟨⟨_, rfl⟩, ⟨_, rfl⟩⟩

theorem witness_CaptureChangesOnlyOnMismatch :
    (∃ t, exec .decReset State.reset = .next t) ∧
    (∃ t, exec (.decByte 0xC0#8) (receiving .inPacket [0x01#8, 0x08#8]) = .next t) := ⟨⟨_, rfl⟩, ⟨_, rfl⟩⟩

/-- Two machines that differ in registers no operation can read, with a word waiting at both. -/
theorem witness_StepKeepsMachinesAlike :
    Inv (offered (.word 0x1001#16) State.reset) ∧
    Same (offered (.word 0x1001#16) State.reset) (offered (.word 0x1001#16) junkReset) ∧
    ∃ t, step (offered (.word 0x1001#16) State.reset) = .next t :=
  ⟨witness_Inv,
   { dec :=
       { state := by decide, len := by decide, buf := fun h => absurd h (by decide), pktValid := by decide
         pkt := fun h => absurd h (by decide), errValid := by decide, err := fun h => absurd h (by decide) }
     enc :=
       { phase := by decide, pendValid := by decide, len := by decide, pend := fun h => absurd h (by decide)
         loaded := fun h => absurd h (by decide), idx := fun h => absurd h (by decide), crc := fun h => absurd h (by decide) }
     crcAcc := by decide, pending := by decide, responses := by decide },
   ⟨_, rfl⟩⟩

theorem witness_ResetContentsUnobservable :
    SpecReset (offered (.word 0x3000#16) State.reset) ∧ SpecReset (offered (.word 0x3000#16) junkReset) ∧
    (offered (.word 0x3000#16) State.reset).pending = (offered (.word 0x3000#16) junkReset).pending ∧
    (offered (.word 0x3000#16) State.reset).responses = (offered (.word 0x3000#16) junkReset).responses :=
  ⟨{ dec_state := by decide, dec_len := by decide, pkt_valid := by decide, err_valid := by decide, enc_phase := by decide,
     enc_pend_valid := by decide, enc_len := by decide, crc_acc := by decide },
   { dec_state := by decide, dec_len := by decide, pkt_valid := by decide, err_valid := by decide, enc_phase := by decide,
     enc_pend_valid := by decide, enc_len := by decide, crc_acc := by decide },
   by decide, by decide⟩

end Sys2Proof.Tests
end

/-! O6: the port. One rule of `step` per shape of the port, from Laws/Exec.lean. -/

section
namespace Sys2Proof.Machine

/-- Settles O6: the four rules of `step` (Laws/Exec.lean), one per shape of the port. -/
theorem stepTakesOldestEvent : Obligations.StepTakesOldestEvent := by
  refine ⟨fun _ hp => step_of_empty hp, fun _ _ _ _ hp hd => step_of_ok hp hd, fun s w rest e hp hd => ?_,
    fun _ _ hp => step_of_rst hp⟩
  rw [step_of_error hp hd, respondIllegal, State.respond, responseWord_illegal]
  rfl

end Sys2Proof.Machine
end

/-! The decoder fed a byte stream (R100 to R110), on `feedAll` and for any capacity: what a delimiter-free stream does to an
idle decoder, how an escaped content is collected, what fills the buffer, and what completes a frame. -/

section
namespace Sys2Proof.Machine

/-! Streams. -/

@[simp] theorem feedAll_nil (cap : Nat) (d : DecUnit) : feedAll cap [] d = (d, []) := rfl

theorem feedAll_cons (cap : Nat) (b : Byte) (bs : List Byte) (d : DecUnit) :
    feedAll cap (b :: bs) d
      = ((feedAll cap bs (decFeed cap b d).1).1, (decFeed cap b d).2 :: (feedAll cap bs (decFeed cap b d).1).2) := rfl

/-- Feeding one stream after another. -/
theorem feedAll_append (cap : Nat) (xs ys : List Byte) (d : DecUnit) :
    feedAll cap (xs ++ ys) d
      = ((feedAll cap ys (feedAll cap xs d).1).1, (feedAll cap xs d).2 ++ (feedAll cap ys (feedAll cap xs d).1).2) := by
  induction xs generalizing d with
  | nil => rfl
  | cons x xs ih => simp only [List.cons_append, feedAll_cons, ih]

/-! `decFeed` by state. -/

theorem decFeed_of_idle {d : DecUnit} (h : d.state = .idle) (cap : Nat) (b : Byte) : decFeed cap b d = decIdle b d := by
  simp only [decFeed, h]

theorem decFeed_of_inPacket {d : DecUnit} (h : d.state = .inPacket) (cap : Nat) (b : Byte) :
    decFeed cap b d = decInPacket cap b d := by
  simp only [decFeed, h]

theorem decFeed_of_inEscape {d : DecUnit} (h : d.state = .inEscape) (cap : Nat) (b : Byte) :
    decFeed cap b d = decInEscape b d := by
  simp only [decFeed, h]

/-- The decoder at the start of a frame (R101). -/
def decOpen (d : DecUnit) : DecUnit := { d with len := 0#9, state := .inPacket }

/-- R101, a delimiter in IDLE. -/
theorem decFeed_idle_delim {d : DecUnit} (h : d.state = .idle) (cap : Nat) :
    decFeed cap DELIM d = (decOpen d, plainReply .notDone) := by
  rw [decFeed_of_idle h, decIdle, if_pos rfl, decOpen]

/-- R101, any other byte in IDLE. -/
theorem decFeed_idle_noise {d : DecUnit} (h : d.state = .idle) (cap : Nat) {b : Byte} (hb : b ≠ DELIM) :
    decFeed cap b d = (d, plainReply .notDone) := by
  rw [decFeed_of_idle h, decIdle, if_neg hb]

/-- R102, any byte at a full buffer. -/
theorem decFeed_full {d : DecUnit} {cap : Nat} (h : d.state = .inPacket) (hfull : cap ≤ d.len.toNat) (b : Byte) :
    decFeed cap b d = recoverIdle .tooMuchData d := by
  rw [decFeed_of_inPacket h, decInPacket, if_pos hfull]

/-- R103, ESCAPE with room in the buffer. -/
theorem decFeed_escape {d : DecUnit} {cap : Nat} (h : d.state = .inPacket) (hroom : d.len.toNat < cap) :
    decFeed cap ESCAPE d = ({ d with state := .inEscape }, plainReply .notDone) := by
  rw [decFeed_of_inPacket h, decInPacket, if_neg (by omega), if_pos rfl]

/-- R104, a delimiter with room in the buffer. -/
theorem decFeed_delim {d : DecUnit} {cap : Nat} (h : d.state = .inPacket) (hroom : d.len.toNat < cap) :
    decFeed cap DELIM d = decComplete d := by
  rw [decFeed_of_inPacket h, decInPacket, if_neg (by omega), if_neg (by decide), if_pos rfl]

/-- R105, a literal byte with room in the buffer. -/
theorem decFeed_literal {d : DecUnit} {cap : Nat} {b : Byte} (h : d.state = .inPacket) (hroom : d.len.toNat < cap)
    (hd : b ≠ DELIM) (he : b ≠ ESCAPE) : decFeed cap b d = (decAppend b d, plainReply .notDone) := by
  rw [decFeed_of_inPacket h, decInPacket, if_neg (by omega), if_neg he, if_neg hd]

/-- R217: a stream without a delimiter leaves an idle decoder alone. -/
theorem feedAll_idle_noise {d : DecUnit} (h : d.state = .idle) (cap : Nat) {bs : List Byte} (hbs : DELIM ∉ bs) :
    feedAll cap bs d = (d, List.replicate bs.length (plainReply .notDone)) := by
  induction bs with
  | nil => rfl
  | cons b bs ih =>
    obtain ⟨hb, hrest⟩ := not_or.mp (List.mem_cons.not.mp hbs)
    rw [feedAll_cons, decFeed_idle_noise h cap (Ne.symm hb), ih hrest, List.length_cons, List.replicate_succ]

/-- R102: at a full buffer a stream without a delimiter is TOO_MUCH_DATA at its first byte and noise after it. -/
theorem feedAll_full {d : DecUnit} {cap : Nat} (h : d.state = .inPacket) (hfull : cap ≤ d.len.toNat) (b : Byte)
    {bs : List Byte} (hbs : DELIM ∉ bs) :
    feedAll cap (b :: bs) d
      = ({ d with state := .idle }, plainReply .tooMuchData :: List.replicate bs.length (plainReply .notDone)) := by
  rw [feedAll_cons, decFeed_full h hfull, recoverIdle, feedAll_idle_noise rfl cap hbs]

/-! Escaped content (R71). -/

/-- Escaping leaves no delimiter between the two of a frame. -/
theorem delim_not_mem_escaped (v : Byte) : DELIM ∉ escaped v := by
  by_cases hd : v = DELIM
  · simp [escaped, hd, show DELIM ≠ ESCAPE by decide, show DELIM ≠ ESC_DELIM by decide]
  · by_cases he : v = ESCAPE
    · simp [escaped, he, show DELIM ≠ ESCAPE by decide, show ESCAPE ≠ DELIM by decide, show DELIM ≠ ESC_ESCAPE by decide]
    · simp [escaped, hd, he, Ne.symm hd]

theorem delim_not_mem_flatMap_escaped (content : List Byte) : DELIM ∉ content.flatMap escaped := by
  simp [List.mem_flatMap, delim_not_mem_escaped]

/-- R103 and R106: an escape pair appends the byte it stands for. -/
theorem feedAll_escape_pair {d : DecUnit} {cap : Nat} (h : d.state = .inPacket) (hroom : d.len.toNat < cap) (b : Byte) :
    feedAll cap [ESCAPE, b] d = (decAppend (unescapeByte b) d, List.replicate 2 (plainReply .notDone)) := by
  have happend : { decAppend (unescapeByte b) { d with state := .inEscape } with state := .inPacket }
      = decAppend (unescapeByte b) d := by rw [← h]; rfl
  rw [feedAll_cons, decFeed_escape h hroom, feedAll_cons, decFeed_of_inEscape rfl, decInEscape, happend]
  rfl

/-- R103, R105, R106: with room in the buffer the wire form of a byte appends that byte. -/
theorem feedAll_escaped {d : DecUnit} {cap : Nat} (h : d.state = .inPacket) (hroom : d.len.toNat < cap) (v : Byte) :
    feedAll cap (escaped v) d = (decAppend v d, List.replicate (escaped v).length (plainReply .notDone)) := by
  by_cases hd : v = DELIM
  · rw [escaped, if_pos hd, feedAll_escape_pair h hroom, hd]; rfl
  · by_cases he : v = ESCAPE
    · rw [escaped, if_neg hd, if_pos he, feedAll_escape_pair h hroom, he]; rfl
    · rw [escaped, if_neg hd, if_neg he, feedAll_cons, decFeed_literal h hroom hd he]; rfl

/-- The decoder after a whole content was appended to its buffer (R105, R106). -/
def decCollect (content : List Byte) (d : DecUnit) : DecUnit :=
  { d with buf := writeFrom d.buf d.len.toNat content, len := d.len + BitVec.ofNat 9 content.length }

/-- One append below the largest counter value does not wrap. -/
theorem decAppend_len_toNat {d : DecUnit} (h : d.len.toNat < 511) (v : Byte) :
    (decAppend v d).len.toNat = d.len.toNat + 1 := by
  simp only [decAppend]; bv_omega

/-- Collecting a content is appending its first byte and collecting the others. -/
theorem decCollect_cons {d : DecUnit} (h : d.len.toNat < 511) (v : Byte) (content : List Byte) :
    decCollect (v :: content) d = decCollect content (decAppend v d) := by
  have hlen : d.len + BitVec.ofNat 9 (content.length + 1) = (decAppend v d).len + BitVec.ofNat 9 content.length := by
    simp only [decAppend]; bv_omega
  simp only [decCollect, writeFrom, List.length_cons, hlen, decAppend_len_toNat h]
  rfl

/-- A content that fits the buffer is collected, NOT_DONE at every wire byte. -/
theorem feedAll_content {d : DecUnit} {cap : Nat} {content : List Byte} (hcap : cap ≤ 259) (h : d.state = .inPacket)
    (hroom : d.len.toNat + content.length ≤ cap) :
    feedAll cap (content.flatMap escaped) d
      = (decCollect content d, List.replicate (content.flatMap escaped).length (plainReply .notDone)) := by
  induction content generalizing d with
  | nil => simp [decCollect, writeFrom]
  | cons v content ih =>
    rw [List.length_cons] at hroom
    have hlen : (decAppend v d).len.toNat = d.len.toNat + 1 := decAppend_len_toNat (by omega) v
    rw [List.flatMap_cons, feedAll_append, feedAll_escaped h (by omega), ih (d := decAppend v d) h (by omega),
      decCollect_cons (by omega), List.length_append, List.replicate_add]

/-- The decoder's buffer holds exactly this content: `dec_buf[0 .. dec_len-1]` (R23, R24). -/
structure DecHolds (d : DecUnit) (content : List Byte) : Prop where
  len : d.len.toNat = content.length
  buf : d.buf.cells.take content.length = content

/-- A content collected from the start of a frame is what the buffer holds. -/
theorem decHolds_collect_open (d : DecUnit) {content : List Byte} (h : content.length ≤ 259) :
    DecHolds (decCollect content (decOpen d)) content where
  len := by simp only [decCollect, decOpen]; bv_omega
  buf := take_writeFrom_zero content d.buf h

/-! Completion (R104, R110). -/

/-- An element of the content is read from the buffer. -/
theorem DecHolds.readAt_eq {d : DecUnit} {content : List Byte} (h : DecHolds d content) {i : Nat} {v : Byte}
    (hv : content[i]? = some v) : readAt .decBuf d.buf i = v := by
  have hi : i < content.length := (List.getElem?_eq_some_iff.mp hv).1
  refine readAt_of_some _ _ ?_
  rw [← hv, ← h.buf, List.getElem?_take_of_lt hi]

/-- All but the last byte of the content, as R110 reads it. -/
theorem DecHolds.take_init {d : DecUnit} {xs : List Byte} {k : Byte} (h : DecHolds d (xs ++ [k])) :
    d.buf.cells.take (d.len.toNat - 1) = xs := by
  have hbuf := congrArg (List.take xs.length) h.buf
  rw [List.take_take, List.take_left] at hbuf
  simpa [h.len] using hbuf

/-- `exp` of R110 is the checksum of all but the last byte held. -/
theorem DecHolds.decExpected_eq {d : DecUnit} {xs : List Byte} {k : Byte} (h : DecHolds d (xs ++ [k])) :
    decExpected d = crc8 xs CRC_INIT := by
  rw [decExpected, h.take_init]

/-- `rcv` of R110 is the last byte held. -/
theorem DecHolds.decReceived_eq {d : DecUnit} {xs : List Byte} {k : Byte} (h : DecHolds d (xs ++ [k])) :
    decReceived d = k :=
  h.readAt_eq (by simp [h.len])

/-- The decoder after the hand-off of a packet (R110); the payload elements beyond `p` keep what they held (R28). -/
def decDeliver (c : Byte) (p : List Byte) (d : DecUnit) : DecUnit :=
  { d with pktCmd := c, pktLen := BitVec.ofNat 9 p.length, pktPayload := writeFrom d.pktPayload 0 p, pktValid := true,
           state := .idle }

/-- R110: the hand-off of a buffer that holds a command, a payload and one more byte. -/
theorem decAccept_of_holds {d : DecUnit} {c k : Byte} {p : List Byte} (h : DecHolds d (c :: p ++ [k])) :
    decAccept d = (decDeliver c p d, ⟨.ok, BitVec.ofNat 9 p.length⟩) := by
  have hlen : d.len - 2#9 = BitVec.ofNat 9 p.length := by
    have := h.len
    simp only [List.length_append, List.length_cons, List.length_nil] at this
    bv_omega
  have hcmd : readAt .decBuf d.buf 0 = c := h.readAt_eq rfl
  simp [decAccept, decDeliver, hcmd, hlen, h.take_init, okReply, zext9]

/-- R104 and R110: a delimiter after the content of a frame hands the packet off. -/
theorem decComplete_of_holds_frameContent {d : DecUnit} {c : Byte} {p : List Byte} (h : DecHolds d (frameContent c p)) :
    decComplete d = (decDeliver c p d, ⟨.ok, BitVec.ofNat 9 p.length⟩) := by
  have hholds : DecHolds d (c :: p ++ [frameChecksum c p]) := h
  have hlen : d.len.toNat = p.length + 2 := by simpa using hholds.len
  have hvalid : decExpected d = decReceived d := by rw [hholds.decExpected_eq, hholds.decReceived_eq, frameChecksum]
  rw [decComplete, if_neg (by bv_omega), if_neg (by bv_omega), if_pos hvalid, decAccept_of_holds hholds]

/-! Whole frames (R70, R8). The premise `hopen` says that the frame's leading delimiter opens a frame: it does in IDLE
(`decFeed_idle_delim`). -/

@[simp] theorem length_frameContent (c : Byte) (p : List Byte) : (frameContent c p).length = p.length + 2 := by
  simp [frameContent]

/-- A frame whose content leaves room for its trailing delimiter is NOT_DONE at every byte but the last, and OK there. -/
theorem feedAll_frame_of_fits {d : DecUnit} {cap : Nat} {c : Byte} {p : List Byte} (hcap : cap ≤ 259)
    (hopen : decFeed cap DELIM d = (decOpen d, plainReply .notDone)) (hfit : p.length + 3 ≤ cap) :
    feedAll cap (frame c p) d
      = (decDeliver c p (decCollect (frameContent c p) (decOpen d)),
         List.replicate ((frame c p).length - 1) (plainReply .notDone) ++ [⟨.ok, BitVec.ofNat 9 p.length⟩]) := by
  have hholds : DecHolds (decCollect (frameContent c p) (decOpen d)) (frameContent c p) :=
    decHolds_collect_open d (by rw [length_frameContent]; omega)
  have hroom : (decOpen d).len.toNat + (frameContent c p).length ≤ cap := by
    rw [length_frameContent]; simp only [decOpen, BitVec.toNat_ofNat]; omega
  have hlast : decFeed cap DELIM (decCollect (frameContent c p) (decOpen d))
      = (decDeliver c p (decCollect (frameContent c p) (decOpen d)), ⟨.ok, BitVec.ofNat 9 p.length⟩) := by
    rw [decFeed_delim rfl (by rw [hholds.len, length_frameContent]; omega), decComplete_of_holds_frameContent hholds]
  rw [frame, feedAll_cons, hopen, feedAll_append, feedAll_content hcap rfl hroom, feedAll_cons, hlast]
  simp [List.replicate_succ]

/-- At a full buffer, what is left of a frame is TOO_MUCH_DATA at its first byte and NOT_DONE after it. -/
theorem feedAll_full_delim_replies {d : DecUnit} {cap : Nat} (h : d.state = .inPacket) (hfull : cap ≤ d.len.toNat)
    {bs : List Byte} (hbs : DELIM ∉ bs) :
    (feedAll cap (bs ++ [DELIM]) d).2
      = plainReply .tooMuchData :: List.replicate bs.length (plainReply .notDone) := by
  cases bs with
  | nil => rw [List.nil_append, feedAll_full h hfull DELIM List.not_mem_nil]
  | cons b bs =>
    rw [feedAll_append, feedAll_full h hfull b (mt (List.mem_cons_of_mem b) hbs), feedAll_cons, decFeed_idle_delim rfl]
    simp [List.replicate_succ']

/-- A frame whose content fills the buffer: NOT_DONE while `cap` content bytes are collected, TOO_MUCH_DATA at the next wire
byte, NOT_DONE for the rest. -/
theorem feedAll_frame_overlong_replies {d : DecUnit} {cap : Nat} {c : Byte} {p : List Byte} (hcap : cap ≤ 259)
    (hopen : decFeed cap DELIM d = (decOpen d, plainReply .notDone)) (hlong : cap ≤ p.length + 2) :
    (feedAll cap (frame c p) d).2
      = List.replicate (1 + (((frameContent c p).take cap).flatMap escaped).length) (plainReply .notDone) ++
        plainReply .tooMuchData ::
          List.replicate (((frameContent c p).drop cap).flatMap escaped).length (plainReply .notDone) := by
  have htaken : ((frameContent c p).take cap).length = cap := by
    rw [List.length_take, length_frameContent]; omega
  have hsplit : (frameContent c p).flatMap escaped
      = ((frameContent c p).take cap).flatMap escaped ++ ((frameContent c p).drop cap).flatMap escaped := by
    rw [← List.flatMap_append, List.take_append_drop]
  have hholds : DecHolds (decCollect ((frameContent c p).take cap) (decOpen d)) ((frameContent c p).take cap) :=
    decHolds_collect_open d (by omega)
  have hroom : (decOpen d).len.toNat + ((frameContent c p).take cap).length ≤ cap := by
    rw [htaken]; simp [decOpen]
  rw [frame, hsplit, feedAll_cons, hopen, List.append_assoc, feedAll_append, feedAll_content hcap rfl hroom,
    feedAll_full_delim_replies rfl (by rw [hholds.len, htaken]) (delim_not_mem_flatMap_escaped _)]
  simp [List.replicate_add]

/-- No reply to an overlong frame is OK. -/
theorem feedAll_frame_overlong_not_ok {d : DecUnit} {cap : Nat} {c : Byte} {p : List Byte} (hcap : cap ≤ 259)
    (hopen : decFeed cap DELIM d = (decOpen d, plainReply .notDone)) (hlong : cap ≤ p.length + 2) {r : Reply}
    (hr : r ∈ (feedAll cap (frame c p) d).2) : r.code ≠ .ok := by
  rw [feedAll_frame_overlong_replies hcap hopen hlong, List.mem_append, List.mem_cons] at hr
  obtain hr | rfl | hr := hr
  · rw [List.eq_of_mem_replicate hr]; decide
  · decide
  · rw [List.eq_of_mem_replicate hr]; decide

/-- Settles O27: a content of `p.length + 2` bytes with room to spare is delivered at the trailing delimiter, and one that
reaches the capacity is answered TOO_MUCH_DATA, with no OK before or after. -/
theorem capacityBoundsAcceptedPayload : Obligations.CapacityBoundsAcceptedPayload := by
  intro cap d c p _ hcap hidle
  have hopen := decFeed_idle_delim hidle cap
  refine ⟨⟨fun hok => ?_, fun hfit => ?_⟩, fun hfit => ?_⟩
  · by_contra hlong
    exact feedAll_frame_overlong_not_ok hcap hopen (by omega) (List.mem_of_getLast? hok) rfl
  · rw [feedAll_frame_of_fits hcap hopen hfit, List.getLast?_concat]
  · rw [feedAll_frame_of_fits hcap hopen hfit]
    refine ⟨rfl, ?_, take_writeFrom_zero p d.pktPayload (by simp only [Config.maxPayload]; omega)⟩
    simp only [decDeliver, BitVec.toNat_ofNat]; omega

end Sys2Proof.Machine
end

/-! The registers an operation may write (R20, R25 to R31, R60): each unit its own, and the decoder's packet and capture
registers only where a delimiter completes a frame. -/

section
namespace Sys2Proof.Machine

/-- Settles O51: an operation is its owner's, and an operation on one unit leaves the other two alone (Laws/Exec.lean). -/
theorem operationsTouchOwnUnit : Obligations.OperationsTouchOwnUnit := by
  intro i s
  cases h : i.owner with
  | dec =>
    obtain ⟨f, hf⟩ := exec_of_dec h
    exact ⟨_, _, (hf s).trans (onDec_eq f s), rfl, rfl, absurd rfl, fun _ => rfl, fun _ => rfl⟩
  | enc =>
    obtain ⟨f, hf⟩ := exec_of_enc h
    exact ⟨_, _, (hf s).trans (onEnc_eq f s), rfl, rfl, fun _ => rfl, absurd rfl, fun _ => rfl⟩
  | crc =>
    obtain ⟨f, hf⟩ := exec_of_crc h
    exact ⟨_, _, (hf s).trans (onCrc_eq f s), rfl, rfl, fun _ => rfl, fun _ => rfl, absurd rfl⟩

/-- An operation of another unit leaves the decoder's registers alone (R60). -/
theorem exec_dec_of_owner_ne {i : Instr} {s t : State} (hi : i.owner ≠ .dec) (h : exec i s = .next t) : t.dec = s.dec := by
  obtain ⟨u, _, hu, _, _, hdec, _⟩ := operationsTouchOwnUnit i s
  cases hu.symm.trans h
  exact hdec hi

/-! The packet and capture registers, which the readout operations report (R25 to R31). -/

/-- `d'` is `d` but for the receiving registers `dec_state`, `dec_buf` and `dec_len`: the packet and capture registers are
kept. -/
def ReadoutKept (d d' : DecUnit) : Prop := ∃ st v n, d' = { d with state := st, buf := v, len := n }

theorem ReadoutKept.refl (d : DecUnit) : ReadoutKept d d := ⟨_, _, _, rfl⟩

theorem ReadoutKept.packet {d d' : DecUnit} (h : ReadoutKept d d') :
    d'.pktValid = d.pktValid ∧ d'.pktCmd = d.pktCmd ∧ d'.pktLen = d.pktLen ∧ d'.pktPayload = d.pktPayload := by
  obtain ⟨_, _, _, rfl⟩ := h
  exact ⟨rfl, rfl, rfl, rfl⟩

theorem ReadoutKept.capture {d d' : DecUnit} (h : ReadoutKept d d') :
    d'.errValid = d.errValid ∧ d'.errExpected = d.errExpected ∧ d'.errReceived = d.errReceived := by
  obtain ⟨_, _, _, rfl⟩ := h
  exact ⟨rfl, rfl, rfl⟩

/-- R104: a completing delimiter keeps both groups of registers unless at least two bytes are held. -/
theorem decComplete_cases (d : DecUnit) :
    ReadoutKept d (decComplete d).1 ∨
      2 ≤ d.len.toNat ∧ (decComplete d = decAccept d ∨ decComplete d = decMismatch d) := by
  by_cases h0 : d.len = 0#9
  · rw [decComplete, if_pos h0]
    exact .inl (.refl d)
  by_cases h1 : d.len = 1#9
  · rw [decComplete, if_neg h0, if_pos h1]
    exact .inl ⟨_, _, _, rfl⟩
  have hlen : 2 ≤ d.len.toNat := by bv_omega
  rw [decComplete, if_neg h0, if_neg h1]
  split
  · exact .inr ⟨hlen, .inl rfl⟩
  · exact .inr ⟨hlen, .inr rfl⟩

/-- R102 to R105: in IN_PACKET only a delimiter with room in the buffer does more than receive. -/
theorem decInPacket_cases (cap : Nat) (b : Byte) (d : DecUnit) :
    ReadoutKept d (decInPacket cap b d).1 ∨ b = DELIM ∧ decInPacket cap b d = decComplete d := by
  unfold decInPacket
  split
  · exact .inl ⟨_, _, _, rfl⟩
  split
  · exact .inl ⟨_, _, _, rfl⟩
  split
  · exact .inr ⟨‹_›, rfl⟩
  · exact .inl ⟨_, _, _, rfl⟩

/-- R100: one wire byte keeps both groups of registers, unless it is the delimiter that ends a frame of at least two bytes,
which is then accepted (R110) or a mismatch (R111). -/
theorem decFeed_cases (cap : Nat) (b : Byte) (d : DecUnit) :
    ReadoutKept d (decFeed cap b d).1 ∨
      b = DELIM ∧ d.state = .inPacket ∧ 2 ≤ d.len.toNat ∧
        (decFeed cap b d = decAccept d ∨ decFeed cap b d = decMismatch d) := by
  cases h : d.state with
  | idle =>
    by_cases hb : b = DELIM
    · rw [hb, decFeed_idle_delim h]
      exact .inl ⟨_, _, _, rfl⟩
    · rw [decFeed_idle_noise h cap hb]
      exact .inl (.refl d)
  | inPacket =>
    rw [decFeed_of_inPacket h]
    obtain hkept | ⟨hb, hcomplete⟩ := decInPacket_cases cap b d
    · exact .inl hkept
    · rw [hcomplete]
      exact (decComplete_cases d).imp_right fun hends => ⟨hb, rfl, hends⟩
  | inEscape =>
    rw [decFeed_of_inEscape h]
    exact .inl ⟨_, _, _, rfl⟩
  | invalid =>
    rw [decFeed, h]
    exact .inl ⟨_, _, _, rfl⟩

/-- A decoder operation is what it does to the decoder's registers as they are. -/
theorem onDec_congr {f g : DecUnit → DecUnit × Reply} {s : State} (h : f s.dec = g s.dec) : onDec f s = onDec g s := by
  rw [onDec, onDec, h]

/-- What any operation can do to the packet and capture registers: keep them, hand a packet off (R110), or capture a
mismatch (R111). -/
theorem exec_readout_cases {i : Instr} {s t : State} (h : exec i s = .next t) :
    ReadoutKept s.dec t.dec ∨
      i = .decByte DELIM ∧ s.dec.state = .inPacket ∧ 2 ≤ s.dec.len.toNat ∧
        (onDec decAccept s = .next t ∨ onDec decMismatch s = .next t) := by
  by_cases hi : i.owner = .dec
  case neg =>
    rw [exec_dec_of_owner_ne hi h]
    exact .inl (.refl _)
  cases i with
  | decByte b =>
    rw [exec_decByte] at h
    obtain hkept | ⟨rfl, hstate, hlen, hends⟩ := decFeed_cases Config.decBufMax b s.dec
    · cases h
      exact .inl hkept
    · exact .inr ⟨rfl, hstate, hlen,
        hends.imp (fun hf => (onDec_congr hf).symm.trans h) (fun hf => (onDec_congr hf).symm.trans h)⟩
  | decReset =>
    cases h
    exact .inl ⟨_, _, _, rfl⟩
  | decState | decLen | pktCmd | pktLen | pktByte _ | errExp | errRcv =>
    cases h
    exact .inl (.refl _)
  | encBegin _ | encPush _ | encGo | encNext | encAbort | encState | encLen | crcSeed _ | crcByte _ | crcRead =>
    cases hi

/-- Settles O54: of the outcomes of `exec_readout_cases` only the hand-off writes the packet registers. -/
theorem packetChangesOnlyOnOk : Obligations.PacketChangesOnlyOnOk := by
  intro i s t h
  obtain hkept | ⟨rfl, hstate, hlen, haccept | hmismatch⟩ := exec_readout_cases h
  · exact .inl hkept.packet
  · cases haccept
    have hresponse := responseWord_okReply (s.dec.len - 2#9) le_rfl
    exact .inr ⟨rfl, hstate, hlen, rfl, congrArg (fun r => s.responses ++ [r]) hresponse⟩
  · cases hmismatch
    exact .inl ⟨rfl, rfl, rfl, rfl⟩

/-- Settles O55: of the outcomes of `exec_readout_cases` only the mismatch writes the capture registers. -/
theorem captureChangesOnlyOnMismatch : Obligations.CaptureChangesOnlyOnMismatch := by
  intro i s t h
  obtain hkept | ⟨rfl, hstate, hlen, haccept | hmismatch⟩ := exec_readout_cases h
  · exact .inl hkept.capture
  · cases haccept
    exact .inl ⟨rfl, rfl, rfl⟩
  · cases hmismatch
    exact .inr ⟨rfl, hstate, hlen, rfl,
      congrArg (fun r => s.responses ++ [r]) responseWord_checksumMismatch⟩

end Sys2Proof.Machine
end

/-! What the port and the units keep apart (20_memory.md, R57 to R60): a command word gets one well-formed response, a read
writes no register, and operations of different units do not meet. -/

section
namespace Sys2Proof.Machine

/-! One response for each command word (R57, R59, R80, R81). -/

/-- R81 and I10: the codes 11 to 14 are reserved. -/
theorem codeBits_not_reserved (c : ResultCode) : (codeBits c).toNat ≤ 10 ∨ (codeBits c).toNat = 15 := by
  cases c <;> decide

/-- R57: a command word at the port is taken off it and answered with one response, whether it is legal or not. -/
theorem step_of_word {s : State} {w : Word} {rest : List PortEvent} (h : s.pending = .word w :: rest) :
    ∃ (t : State) (r : Reply), step s = .next t ∧ t.pending = rest ∧ t.responses = s.responses ++ [responseWord r] := by
  cases hd : decode w with
  | ok i =>
    obtain ⟨_, _, _, r, hx⟩ := exec_next i (s.setPending rest)
    exact ⟨_, r, (step_of_ok h hd).trans hx, rfl, rfl⟩
  | error e => exact ⟨_, plainReply .illegal, step_of_error h hd, rfl, rfl⟩

/-- Settles O7: the response to a word is some reply's, with nine bits of data and a code that is not reserved. -/
theorem everyWordAnsweredOnce : Obligations.EveryWordAnsweredOnce := by
  intro s w rest h
  obtain ⟨t, ⟨code, data⟩, hstep, hpending, hresponses⟩ := step_of_word h
  rw [responseWord_eq] at hresponses
  exact ⟨t, _, _, hstep, hpending, hresponses, data.isLt, codeBits_not_reserved code⟩

/-! Operations of different units (R60). -/

/-- In either order `i` and `j` leave the same registers, and each gets the same response. -/
def OpsCommute (i j : Instr) (s : State) : Prop :=
  ∃ (a b t u : State) (ri rj : Word),
    exec i s = .next a ∧ exec j a = .next t ∧ exec j s = .next b ∧ exec i b = .next u ∧
    t.dec = u.dec ∧ t.enc = u.enc ∧ t.crcAcc = u.crcAcc ∧
    t.responses = s.responses ++ [ri, rj] ∧ u.responses = s.responses ++ [rj, ri]

theorem OpsCommute.symm {i j : Instr} {s : State} (h : OpsCommute i j s) : OpsCommute j i s := by
  obtain ⟨a, b, t, u, ri, rj, hi, hij, hj, hji, hdec, henc, hcrc, ht, hu⟩ := h
  exact ⟨b, a, u, t, rj, ri, hj, hji, hi, hij, hdec.symm, henc.symm, hcrc.symm, hu, ht⟩

theorem opsCommute_dec_enc {i j : Instr} (hi : i.owner = .dec) (hj : j.owner = .enc) (s : State) : OpsCommute i j s := by
  obtain ⟨f, hf⟩ := exec_of_dec hi
  obtain ⟨g, hg⟩ := exec_of_enc hj
  exact ⟨_, _, _, _, _, _, hf s, hg _, hg s, hf _, rfl, rfl, rfl, List.append_assoc .., List.append_assoc ..⟩

theorem opsCommute_dec_crc {i j : Instr} (hi : i.owner = .dec) (hj : j.owner = .crc) (s : State) : OpsCommute i j s := by
  obtain ⟨f, hf⟩ := exec_of_dec hi
  obtain ⟨g, hg⟩ := exec_of_crc hj
  exact ⟨_, _, _, _, _, _, hf s, hg _, hg s, hf _, rfl, rfl, rfl, List.append_assoc .., List.append_assoc ..⟩

theorem opsCommute_enc_crc {i j : Instr} (hi : i.owner = .enc) (hj : j.owner = .crc) (s : State) : OpsCommute i j s := by
  obtain ⟨f, hf⟩ := exec_of_enc hi
  obtain ⟨g, hg⟩ := exec_of_crc hj
  exact ⟨_, _, _, _, _, _, hf s, hg _, hg s, hf _, rfl, rfl, rfl, List.append_assoc .., List.append_assoc ..⟩

/-- Settles O52: one lemma for each pair of units, used in both directions. -/
theorem unitsCommute : Obligations.UnitsCommute := by
  intro i j s hne
  cases hi : i.owner <;> cases hj : j.owner
  case dec.enc => exact opsCommute_dec_enc hi hj s
  case dec.crc => exact opsCommute_dec_crc hi hj s
  case enc.crc => exact opsCommute_enc_crc hi hj s
  case enc.dec => exact (opsCommute_dec_enc hj hi s).symm
  case crc.dec => exact (opsCommute_dec_crc hj hi s).symm
  case crc.enc => exact (opsCommute_enc_crc hj hi s).symm
  case dec.dec | enc.enc | crc.crc => exact absurd (hi.trans hj.symm) hne

/-! The read operations (R58). -/

/-- The ten operations that R58 calls reads are reads of the registers: their reply does not depend on the responses handed
back before. -/
theorem exec_of_read {i : Instr} {k : Nine}
    (h : i ∈ [.decState, .decLen, .encState, .encLen, .crcRead, .pktCmd, .pktLen, .pktByte k, .errExp, .errRcv]) :
    ∃ f : State → Reply, (∀ s log, f { s with responses := log } = f s) ∧ ∀ s, exec i s = onRead f s := by
  simp only [List.mem_cons, List.not_mem_nil, or_false] at h
  obtain rfl | rfl | rfl | rfl | rfl | rfl | rfl | rfl | rfl | rfl := h
  · exact ⟨_, fun _ _ => rfl, exec_decState⟩
  · exact ⟨_, fun _ _ => rfl, exec_decLen⟩
  · exact ⟨_, fun _ _ => rfl, exec_encState⟩
  · exact ⟨_, fun _ _ => rfl, exec_encLen⟩
  · exact ⟨_, fun _ _ => rfl, exec_crcRead⟩
  · exact ⟨_, fun _ _ => rfl, exec_pktCmd⟩
  · exact ⟨_, fun _ _ => rfl, exec_pktLen⟩
  · exact ⟨_, fun _ _ => rfl, exec_pktByte k⟩
  · exact ⟨_, fun _ _ => rfl, exec_errExp⟩
  · exact ⟨_, fun _ _ => rfl, exec_errRcv⟩

/-- Settles O53: a read adds its reply to the responses (`onRead_eq`), and that reply is the same after it. -/
theorem readsChangeNothing : Obligations.ReadsChangeNothing := by
  intro i s k hi
  obtain ⟨f, hf, hexec⟩ := exec_of_read hi
  refine ⟨responseWord (f s), (hexec s).trans (onRead_eq f s), ?_⟩
  have hsame := hf s (s.responses ++ [responseWord (f s)])
  rw [hexec, onRead_eq, hsame]

end Sys2Proof.Machine
end

/-! Command words (R75 to R78): decoding and encoding as the two directions of one relation between a word's fields and an
operation (`decodeFields_eq_ok_iff`), which words are legal (`decodeFields_eq_ok_of_wf`), and what selecting a row of the opcode
map says about the fields (`and_mask_eq_iff`). -/

section
namespace Sys2Proof

/-! Fields. -/

theorem byteArg_eq_setWidth (b : Byte) : byteArg b = b.setWidth 9 := by
  revert b; decide +kernel

/-- An argument with `arg[8]` clear is the argument of a byte (R76). -/
theorem setWidth_setWidth_of_reserved {arg : Nine} (h : arg.getLsbD 8 = false) : (arg.setWidth 8).setWidth 9 = arg := by
  revert arg; decide +kernel

theorem commandWord_eq_iff {op : BitVec 7} {arg : Nine} {w : Word} :
    commandWord op arg = w ↔ op = opField w ∧ arg = argField w := by
  constructor
  · rintro rfl; simp
  · rintro ⟨rfl, rfl⟩; exact commandWord_fields w

theorem commandWord_and (op op' : BitVec 7) (arg arg' : Nine) :
    commandWord op arg &&& commandWord op' arg' = commandWord (op &&& op') (arg &&& arg') := BitVec.and_append

/-- The encoder and the table of fields written beside it (WellFormed.lean) agree. -/
theorem encode_eq_commandWord_raw (i : Instr) : encode i = commandWord i.raw.op i.raw.arg := by
  cases i with
  | decByte b | encBegin b | encPush b | crcSeed b | crcByte b => simp only [encode, Instr.raw, byteArg_eq_setWidth]
  | _ => rfl

/-! The forms of an argument (R76). -/

theorem byteForm_of_reserved {arg : Nine} (h : arg.getLsbD 8 = false) (build : Byte → Instr) (op : BitVec 7) :
    byteForm build op arg = .ok (build (arg.setWidth 8)) := by
  rw [byteForm, h, if_neg Bool.false_ne_true]

theorem byteForm_setWidth (build : Byte → Instr) (op : BitVec 7) (b : Byte) :
    byteForm build op (b.setWidth 9) = .ok (build b) := by
  rw [← byteArg_eq_setWidth, byteForm_of_reserved (by simp), byteArg_byte]

theorem raw_of_byteForm_ok {build : Byte → Instr} {op : BitVec 7} {arg : Nine} {i : Instr}
    (hraw : ∀ b, (build b).raw = ⟨op, b.setWidth 9⟩) (h : byteForm build op arg = .ok i) : i.raw = ⟨op, arg⟩ := by
  cases hres : arg.getLsbD 8 with
  | true => rw [byteForm, hres, if_pos rfl] at h; cases h
  | false =>
    rw [byteForm_of_reserved hres] at h
    cases h
    rw [hraw, setWidth_setWidth_of_reserved hres]

theorem raw_of_noneForm_ok {j : Instr} {op : BitVec 7} {arg : Nine} {i : Instr}
    (hraw : j.raw = ⟨op, 0#9⟩) (h : noneForm j op arg = .ok i) : i.raw = ⟨op, arg⟩ := by
  unfold noneForm at h
  split at h
  next harg => cases h; rw [hraw, harg]
  next => cases h

theorem not_wf_of_byteForm_error {build : Byte → Instr} {op : BitVec 7} {arg : Nine} {e : Illegal}
    (hform : formOfOp op = some .byte) (h : byteForm build op arg = .error e) : (RawOp.mk op arg).wf = false := by
  cases hres : arg.getLsbD 8 with
  | true => simp only [RawOp.wf, hform, Form.argOk, hres, Bool.not_true]
  | false => rw [byteForm_of_reserved hres] at h; cases h

theorem not_wf_of_noneForm_error {j : Instr} {op : BitVec 7} {arg : Nine} {e : Illegal}
    (hform : formOfOp op = some .none) (h : noneForm j op arg = .error e) : (RawOp.mk op arg).wf = false := by
  unfold noneForm at h
  split at h
  next => cases h
  next harg => simp only [RawOp.wf, hform, Form.argOk, beq_eq_false_iff_ne.mpr harg]

/-! The operation codes of each form (R77, R78). -/

theorem formOfOp_eq_byte_iff (op : BitVec 7) :
    formOfOp op = some .byte ↔ op.toNat ∈ [0x01, 0x08, 0x09, 0x10, 0x11] := by
  revert op; decide +kernel

theorem formOfOp_eq_index_iff (op : BitVec 7) : formOfOp op = some .index ↔ op.toNat = 0x1A := by
  revert op; decide +kernel

theorem formOfOp_eq_none_iff (op : BitVec 7) :
    formOfOp op = none ↔ op.toNat = 0x00 ∨ (0x05 ≤ op.toNat ∧ op.toNat ≤ 0x07) ∨ op.toNat = 0x0F ∨
      (0x13 ≤ op.toNat ∧ op.toNat ≤ 0x17) ∨ op.toNat = 0x1B ∨ 0x1E ≤ op.toNat := by
  revert op; decide +kernel

/-! The decoder. -/

theorem raw_of_decodeFields_ok {op : BitVec 7} {arg : Nine} {i : Instr} (h : decodeFields op arg = .ok i) :
    i.raw = ⟨op, arg⟩ := by
  unfold decodeFields at h
  split at h
  -- The five B-form ops, PKT_BYTE, an unassigned op; then the N-form ops.
  case h_1 | h_5 | h_6 | h_12 | h_13 => exact raw_of_byteForm_ok (fun _ => rfl) h
  case h_17 => cases h; rfl
  case h_20 => cases h
  all_goals exact raw_of_noneForm_ok rfl h

theorem decodeFields_raw (i : Instr) : decodeFields i.raw.op i.raw.arg = .ok i := by
  cases i with
  | decByte b | encBegin b | encPush b | crcSeed b | crcByte b => exact byteForm_setWidth _ _ b
  | _ => rfl

/-- The decoder reads an operation exactly from the operation's two fields. -/
theorem decodeFields_eq_ok_iff {op : BitVec 7} {arg : Nine} {i : Instr} :
    decodeFields op arg = .ok i ↔ i.raw = ⟨op, arg⟩ := by
  refine ⟨raw_of_decodeFields_ok, fun h => ?_⟩
  have := decodeFields_raw i
  rwa [h] at this

theorem not_wf_of_decodeFields_error {op : BitVec 7} {arg : Nine} {e : Illegal} (h : decodeFields op arg = .error e) :
    (RawOp.mk op arg).wf = false := by
  unfold decodeFields at h
  split at h
  -- The five B-form ops, PKT_BYTE, an unassigned op; then the N-form ops.
  case h_1 | h_5 | h_6 | h_12 | h_13 => exact not_wf_of_byteForm_error rfl h
  case h_17 => cases h
  case h_20 =>
    simp only [imp_false] at *
    have hform : formOfOp op = none := (formOfOp_eq_none_iff op).mpr (by bv_omega)
    simp only [RawOp.wf, hform]
  all_goals exact not_wf_of_noneForm_error rfl h

/-- R78: a legal pair of fields is some operation's. -/
theorem decodeFields_eq_ok_of_wf {op : BitVec 7} {arg : Nine} (h : (RawOp.mk op arg).wf = true) :
    ∃ i, decodeFields op arg = .ok i := by
  cases hd : decodeFields op arg with
  | ok i => exact ⟨i, rfl⟩
  | error e => rw [not_wf_of_decodeFields_error hd] at h; cases h

/-- Settles O1: decoding looks at the two fields of the word (`decodeFields_eq_ok_iff`), and a word is its two fields
(`commandWord_eq_iff`). -/
theorem decodeAndEncodeAgree : Obligations.DecodeAndEncodeAgree := by
  intro w i
  rw [decode, decodeFields_eq_ok_iff, encode_eq_commandWord_raw, commandWord_eq_iff, ← RawOp.mk.injEq]

theorem decode_encode (i : Instr) : decode (encode i) = .ok i := (decodeAndEncodeAgree _ i).mpr rfl

/-- Settles O4: the operations' words by O1, the illegal words and the response words by evaluation. -/
theorem writtenOutWordsDecode : Obligations.WrittenOutWordsDecode :=
  ⟨decode_encode (.encPush 0xDB#8), decode_encode (.decByte 0xC0#8), decode_encode (.pktByte 3#9),
    decode_encode (.crcSeed 0x07#8), decode_encode .errExp, by decide, by decide, by decide, by decide, by decide⟩

/-! Rows of the opcode map (R77). -/

/-- Each instruction's facts of Laws/PerInstr.lean, put together. -/
theorem opcodeRow_of_instr (i : Instr) : Laws.OpcodeRow.Statement i := by
  cases i with
  | decByte b => exact Laws.OpcodeRow.decByte b
  | decReset => exact Laws.OpcodeRow.decReset
  | decState => exact Laws.OpcodeRow.decState
  | decLen => exact Laws.OpcodeRow.decLen
  | encBegin c => exact Laws.OpcodeRow.encBegin c
  | encPush b => exact Laws.OpcodeRow.encPush b
  | encGo => exact Laws.OpcodeRow.encGo
  | encNext => exact Laws.OpcodeRow.encNext
  | encAbort => exact Laws.OpcodeRow.encAbort
  | encState => exact Laws.OpcodeRow.encState
  | encLen => exact Laws.OpcodeRow.encLen
  | crcSeed s => exact Laws.OpcodeRow.crcSeed s
  | crcByte b => exact Laws.OpcodeRow.crcByte b
  | crcRead => exact Laws.OpcodeRow.crcRead
  | pktCmd => exact Laws.OpcodeRow.pktCmd
  | pktLen => exact Laws.OpcodeRow.pktLen
  | pktByte k => exact Laws.OpcodeRow.pktByte k
  | errExp => exact Laws.OpcodeRow.errExp
  | errRcv => exact Laws.OpcodeRow.errRcv

/-- The argument bits that a row's mask covers: the reserved bits of the form (R76). -/
def Form.reservedBits (f : Form) : Nine :=
  match f with
  | .byte => BitVec.twoPow 9 8
  | .index => 0#9
  | .none => BitVec.allOnes 9

theorem Form.argOk_iff (f : Form) (arg : Nine) : f.argOk arg = true ↔ arg &&& f.reservedBits = 0#9 := by
  cases f with
  | byte =>
    rw [argOk, reservedBits, BitVec.and_twoPow]
    cases arg.getLsbD 8 <;> decide
  | index => simp [argOk, reservedBits]
  | none => rw [argOk, reservedBits, BitVec.and_allOnes, beq_iff_eq]

/-- A row's printed bits: the match is an op with a zero argument, the mask covers the op and the reserved argument bits, and
the row's form is the op's. -/
theorem opcodeRow_bits : ∀ r ∈ opcodeRows,
    r.matchBits = commandWord (opField r.matchBits) 0#9 ∧
    r.mask = commandWord (BitVec.allOnes 7) r.form.reservedBits ∧
    formOfOp (opField r.matchBits) = some r.form := by
  decide

theorem opcodeRow_eq_of_op : ∀ r ∈ opcodeRows, ∀ r' ∈ opcodeRows,
    opField r.matchBits = opField r'.matchBits → r = r' := by
  decide

/-- A word selects a row when its op is the row's and its reserved argument bits are clear (R76, R77). -/
theorem and_mask_eq_iff {r : OpcodeRow} (hr : r ∈ opcodeRows) (w : Word) :
    w &&& r.mask = r.matchBits ↔ opField w = opField r.matchBits ∧ r.form.argOk (argField w) = true := by
  obtain ⟨hmatch, hmask, -⟩ := opcodeRow_bits r hr
  rw [hmask, ← commandWord_fields w, commandWord_and, BitVec.and_allOnes, commandWord_eq_iff, Form.argOk_iff,
    commandWord_fields, hmatch, argField_commandWord, opField_commandWord]

/-- No two rows of the map select one word. -/
theorem opcodeRow_unique {w : Word} {r r' : OpcodeRow} (hr : r ∈ opcodeRows) (hr' : r' ∈ opcodeRows)
    (h : w &&& r.mask = r.matchBits) (h' : w &&& r'.mask = r'.matchBits) : r = r' :=
  opcodeRow_eq_of_op r hr r' hr' (((and_mask_eq_iff hr w).mp h).1.symm.trans ((and_mask_eq_iff hr' w).mp h').1)

/-- The row that a legal word selects (Laws/PerInstr.lean). -/
theorem opcodeRow_of_decode {w : Word} {i : Instr} (h : decode w = .ok i) :
    ∃ r ∈ opcodeRows, r.mnemonic = mnemonicOf i ∧ w &&& r.mask = r.matchBits := by
  obtain ⟨-, r, hr, hname, hsel⟩ := opcodeRow_of_instr i
  rw [(decodeAndEncodeAgree w i).mp h] at hsel
  exact ⟨r, hr, hname, beq_iff_eq.mp hsel⟩

/-- A word that selects a row is legal. -/
theorem decode_ok_of_opcodeRow {w : Word} {r : OpcodeRow} (hr : r ∈ opcodeRows) (h : w &&& r.mask = r.matchBits) :
    ∃ i, decode w = .ok i := by
  obtain ⟨hop, harg⟩ := (and_mask_eq_iff hr w).mp h
  obtain ⟨-, -, hform⟩ := opcodeRow_bits r hr
  refine decodeFields_eq_ok_of_wf ?_
  simp only [RawOp.wf, hop, hform, harg]

/-- Settles O2: each operation's word lies in the row of its mnemonic, and the rows' ops differ. -/
theorem wordSelectsOneRow : Obligations.WordSelectsOneRow := by
  refine ⟨fun w => ⟨fun ⟨i, hi⟩ => ?_, fun ⟨r, hr, hsel⟩ => decode_ok_of_opcodeRow hr hsel⟩,
    fun w i r hr hi hsel => ?_, fun w r hr r' hr' => opcodeRow_unique hr hr'⟩
  · obtain ⟨r, hr, -, hsel⟩ := opcodeRow_of_decode hi
    exact ⟨r, hr, hsel⟩
  · obtain ⟨r', hr', hname, hsel'⟩ := opcodeRow_of_decode hi
    rw [opcodeRow_unique hr hr' hsel hsel', hname]

/-! Illegal words (R78, R195). -/

theorem decodeFields_error_of_not_wf {op : BitVec 7} {arg : Nine} (h : (RawOp.mk op arg).wf = false) :
    ∃ e, decodeFields op arg = .error e := by
  cases hd : decodeFields op arg with
  | error e => exact ⟨e, rfl⟩
  | ok i =>
    have hwf : i.raw.wf = true := (opcodeRow_of_instr i).1
    rw [raw_of_decodeFields_ok hd, h] at hwf
    cases hwf

/-- R78 (a) and (b), by the form of the op. -/
theorem not_wf_iff (op : BitVec 7) (arg : Nine) :
    (RawOp.mk op arg).wf = false ↔
      formOfOp op = none ∨ (formOfOp op = some .byte ∧ arg.getLsbD 8 = true) ∨
        (¬formOfOp op = some .byte ∧ ¬formOfOp op = some .index ∧ arg ≠ 0#9) := by
  rcases hform : formOfOp op with _ | _ | _ | _ <;> simp [RawOp.wf, hform, Form.argOk]

/-- Settles O3: the words listed are those that are not well formed (`not_wf_iff`); the port answers them ILLEGAL (O6). -/
theorem illegalWordsAnswered : Obligations.IllegalWordsAnswered := by
  intro op arg unassigned byteForm indexForm illegal
  have hillegal : illegal ↔ (RawOp.mk op arg).wf = false := by
    rw [not_wf_iff, formOfOp_eq_none_iff, formOfOp_eq_byte_iff, formOfOp_eq_index_iff]
  have hdecode : decode (op ++ arg) = decodeFields op arg := decode_commandWord op arg
  obtain ⟨-, -, hanswer, -⟩ := Machine.stepTakesOldestEvent
  refine ⟨fun h s rest hp => ?_, fun h => ?_⟩
  · obtain ⟨e, he⟩ := decodeFields_error_of_not_wf (hillegal.mp h)
    exact hanswer s _ rest e hp (hdecode.trans he)
  · rw [hdecode]
    exact decodeFields_eq_ok_of_wf (by simpa [hillegal] using h)

end Sys2Proof
end

/-! The assembler's lines (R83): a hexadecimal operand is read back as its number (`numberValue_operandText`), a line as its
mnemonic and operand texts (`readLine_words`), and a mnemonic as its row of the opcode map (`readWords_mnemonic`). -/

section
namespace Sys2Proof.Machine

/-! Hexadecimal operands. -/

theorem hexValue_hexDigit {n : Nat} (h : n < 16) : hexValue (hexDigit n) = some n := by
  revert n; decide

theorem digitsValue_append (base acc : Nat) (xs ys : List Char) :
    digitsValue base acc (xs ++ ys) = (digitsValue base acc xs).bind (fun a => digitsValue base a ys) := by
  induction xs generalizing acc with
  | nil => rfl
  | cons x xs ih =>
    simp only [List.cons_append, digitsValue]
    cases hexValue x with
    | none => rfl
    | some d => by_cases hd : d < base <;> simp [hd, ih]

/-- The digits written for a number that fits them are read back as that number. -/
theorem digitsValue_hexText {digits v : Nat} (h : v < 16 ^ digits) : digitsValue 16 0 (hexText digits v) = some v := by
  induction digits generalizing v with
  | zero =>
    obtain rfl : v = 0 := by simpa using h
    rfl
  | succ digits ih =>
    have hhigh : v / 16 < 16 ^ digits := by rw [pow_succ] at h; omega
    have hlow : v % 16 < 16 := Nat.mod_lt _ (by decide)
    rw [hexText, digitsValue_append, ih hhigh, Option.bind_some, digitsValue, hexValue_hexDigit hlow]
    simp only [hlow, if_true, digitsValue, Nat.div_add_mod']

theorem hexText_ne_nil (digits v : Nat) : hexText (digits + 1) v ≠ [] := by
  simp [hexText]

theorem numberValue_operandText {digits v : Nat} (h : v < 16 ^ (digits + 1)) :
    numberValue (operandText (digits + 1) v) = some v := by
  obtain ⟨c, cs, hcs⟩ := List.exists_cons_of_ne_nil (hexText_ne_nil digits v)
  rw [operandText, hcs, numberValue, ← hcs, digitsValue_hexText h]
  simp

theorem mem_hexText {digits v : Nat} {c : Char} (h : c ∈ hexText digits v) : ∃ n < 16, c = hexDigit n := by
  induction digits generalizing v with
  | zero => cases h
  | succ digits ih =>
    rw [hexText, List.mem_append, List.mem_singleton] at h
    obtain h | rfl := h
    · exact ih h
    · exact ⟨v % 16, Nat.mod_lt _ (by decide), rfl⟩

/-! The words of a line. -/

/-- A text that `readLine` keeps whole: not empty, without a blank and without the `;` of a comment. -/
structure IsWord (cs : List Char) : Prop where
  ne_nil : cs ≠ []
  no_blank : ' ' ∉ cs
  no_semicolon : ';' ∉ cs

theorem isWord_mnemonic {r : OpcodeRow} (hr : r ∈ opcodeRows) : IsWord r.mnemonic.toList := by
  have rows : ∀ r ∈ opcodeRows, r.mnemonic.toList ≠ [] ∧ ' ' ∉ r.mnemonic.toList ∧ ';' ∉ r.mnemonic.toList := by
    decide
  obtain ⟨hne, hblank, hsemi⟩ := rows r hr
  exact ⟨hne, hblank, hsemi⟩

theorem hexDigit_plain {n : Nat} (h : n < 16) : hexDigit n ≠ ' ' ∧ hexDigit n ≠ ';' := by
  revert n; decide

theorem not_mem_operandText {c : Char} (hzero : c ≠ '0') (hx : c ≠ 'x') (hdigit : ∀ n < 16, hexDigit n ≠ c)
    (digits v : Nat) : c ∉ operandText digits v := by
  simp only [operandText, List.mem_cons, hzero, hx, false_or]
  intro h
  obtain ⟨n, hn, rfl⟩ := mem_hexText h
  exact hdigit n hn rfl

theorem isWord_operandText (digits v : Nat) : IsWord (operandText digits v) where
  ne_nil := List.cons_ne_nil _ _
  no_blank := not_mem_operandText (by decide) (by decide) (fun _ hn => (hexDigit_plain hn).1) digits v
  no_semicolon := not_mem_operandText (by decide) (by decide) (fun _ hn => (hexDigit_plain hn).2) digits v

theorem splitAt_of_not_mem {sep : Char} {cs : List Char} (h : sep ∉ cs) : splitAt sep cs = [cs] := by
  induction cs with
  | nil => rfl
  | cons c cs ih =>
    obtain ⟨hc, hcs⟩ := not_or.mp (List.mem_cons.not.mp h)
    simp [splitAt, ih hcs, Ne.symm hc]

theorem splitAt_ne_nil (sep : Char) (cs : List Char) : splitAt sep cs ≠ [] := by
  cases cs with
  | nil => simp [splitAt]
  | cons c cs =>
    rw [splitAt]
    split
    · simp
    · split <;> simp

/-- The text before the first separator is the first piece. -/
theorem splitAt_append_cons {sep : Char} {cs : List Char} (h : sep ∉ cs) (rest : List Char) :
    splitAt sep (cs ++ sep :: rest) = cs :: splitAt sep rest := by
  induction cs with
  | nil =>
    obtain ⟨piece, pieces, hrest⟩ := List.exists_cons_of_ne_nil (splitAt_ne_nil sep rest)
    simp [splitAt, hrest]
  | cons c cs ih =>
    obtain ⟨hc, hcs⟩ := not_or.mp (List.mem_cons.not.mp h)
    simp [splitAt, ih hcs, Ne.symm hc]

theorem splitAt_words {m : List Char} {ts : List (List Char)} (hm : IsWord m) (hts : ∀ t ∈ ts, IsWord t) :
    splitAt ' ' (m ++ ts.flatMap (' ' :: ·)) = m :: ts := by
  induction ts generalizing m with
  | nil => simpa using splitAt_of_not_mem hm.no_blank
  | cons t ts ih =>
    obtain ⟨ht, hrest⟩ := List.forall_mem_cons.mp hts
    rw [List.flatMap_cons, List.cons_append, splitAt_append_cons hm.no_blank, ih ht hrest]

theorem semicolon_not_mem_words {m : List Char} {ts : List (List Char)} (hm : IsWord m) (hts : ∀ t ∈ ts, IsWord t) :
    ';' ∉ m ++ ts.flatMap (' ' :: ·) := by
  simp only [List.mem_append, List.mem_flatMap, List.mem_cons, Char.reduceEq, false_or]
  rintro (h | ⟨t, ht, h⟩)
  · exact hm.no_semicolon h
  · exact (hts t ht).no_semicolon h

/-- A line of words is read as those words. -/
theorem readLine_words {m : List Char} {ts : List (List Char)} (hm : IsWord m) (hts : ∀ t ∈ ts, IsWord t) :
    readLine (m ++ ts.flatMap (' ' :: ·)) = readWords m ts := by
  have hnocomment : (m ++ ts.flatMap (' ' :: ·)).takeWhile (· ≠ ';') = m ++ ts.flatMap (' ' :: ·) := by
    rw [List.takeWhile_eq_self_iff]
    intro c hc
    simpa using ne_of_mem_of_not_mem hc (semicolon_not_mem_words hm hts)
  have hkept : (m :: ts).filter (fun w => w ≠ []) = m :: ts := by
    rw [List.filter_eq_self]
    intro w hw
    simpa using (List.forall_mem_cons (p := IsWord).mpr ⟨hm, hts⟩ w hw).ne_nil
  rw [readLine, hnocomment, blankSplit, splitAt_words hm hts, hkept]

/-! Rows and operands. -/

theorem readWords_mnemonic {r : OpcodeRow} (hr : r ∈ opcodeRows) (ts : List (List Char)) :
    readWords r.mnemonic.toList ts = readOperand r ts := by
  have rows : ∀ r ∈ opcodeRows,
      r.mnemonic.toList ∉ ["FEED".toList, "CRC".toList, "LOAD".toList, "DRAIN".toList] ∧
      opcodeRows.find? (fun r' => r'.mnemonic.toList = r.mnemonic.toList) = some r := by decide
  obtain ⟨hpseudo, hfind⟩ := rows r hr
  simp only [List.mem_cons, List.not_mem_nil, or_false, not_or] at hpseudo
  obtain ⟨hfeed, hcrc, hload, hdrain⟩ := hpseudo
  rw [readWords, if_neg hfeed, if_neg hcrc, if_neg hload, if_neg hdrain, hfind]

/-- The operand texts of an operation, by its form and its argument field (R76, R83). -/
def argTexts (f : Form) (arg : Nine) : List (List Char) :=
  match f with
  | .byte => [operandText 2 arg.toNat]
  | .index => [operandText 3 arg.toNat]
  | .none => []

theorem isWord_of_mem_argTexts {f : Form} {arg : Nine} {t : List Char} (h : t ∈ argTexts f arg) : IsWord t := by
  cases f with
  | byte | index => rw [List.mem_singleton.mp h]; exact isWord_operandText _ _
  | none => cases h

theorem instrOperand_eq_argTexts {i : Instr} {f : Form} (h : formOfOp i.raw.op = some f) :
    instrOperand i = (argTexts f i.raw.arg).flatMap (' ' :: ·) := by
  cases i with
  | decByte b | encBegin b | encPush b | crcSeed b | crcByte b =>
    cases h
    simp only [instrOperand, argTexts, Instr.raw, BitVec.toNat_setWidth_of_le (show 8 ≤ 9 by decide),
      List.flatMap_singleton]
  | pktByte k => cases h; simp [instrOperand, argTexts, Instr.raw]
  | _ => cases h; rfl

/-- A number written in hexadecimal goes into the low bits of the row's word. -/
theorem readNumber_operandText (r : OpcodeRow) {bound digits v : Nat} (hbound : v < bound) (hdigits : v < 16 ^ (digits + 1)) :
    readOperand.readNumber r bound (operandText (digits + 1) v)
      = readOperand.fromWord (r.matchBits ||| BitVec.ofNat 16 v) := by
  rw [readOperand.readNumber, numberValue_operandText hdigits]
  exact if_pos hbound

theorem commandWord_or_argument (op : BitVec 7) (arg : Nine) :
    commandWord op 0#9 ||| BitVec.ofNat 16 arg.toNat = commandWord op arg := by
  have harg : BitVec.ofNat 16 arg.toNat = 0#7 ++ arg := by
    simp [BitVec.ofNat_toNat, BitVec.setWidth_eq_append]
  rw [harg, commandWord, BitVec.or_append]
  simp [commandWord]

/-- A row's operand texts put their argument into the row's word. -/
theorem readOperand_argTexts {r : OpcodeRow} (hr : r ∈ opcodeRows) {arg : Nine} (harg : r.form.argOk arg = true) :
    readOperand r (argTexts r.form arg) = readOperand.fromWord (commandWord (opField r.matchBits) arg) := by
  obtain ⟨hmatch, -, -⟩ := opcodeRow_bits r hr
  have hword : r.matchBits ||| BitVec.ofNat 16 arg.toNat = commandWord (opField r.matchBits) arg := by
    rw [hmatch, commandWord_or_argument, opField_commandWord]
  rw [← hword]
  cases hform : r.form with
  | byte =>
    rw [hform, Form.argOk, Bool.not_eq_true'] at harg
    have : arg.toNat < 256 := BitVec.toNat_lt_of_msb_false harg
    simp only [readOperand, hform, argTexts]
    exact readNumber_operandText r this this
  | index =>
    simp only [readOperand, hform, argTexts]
    exact readNumber_operandText r arg.isLt (by omega)
  | none =>
    rw [hform] at harg
    have : arg = 0#9 := by simpa [Form.argOk] using harg
    simp [readOperand, hform, argTexts, this]

theorem fromWord_encode (i : Instr) : readOperand.fromWord (encode i) = .ok (.op i) := by
  rw [readOperand.fromWord, decode_encode]

/-- Settles O5: the line's words are the mnemonic of the operation's row and the texts of its argument, which put the argument
back into the row's word; that word is the operation's, and decodes to it (O1). -/
theorem assemblerReadsItsLines : Obligations.AssemblerReadsItsLines := by
  intro i
  obtain ⟨r, hr, hname, hsel⟩ := opcodeRow_of_decode (decode_encode i)
  rw [and_mask_eq_iff hr, encode_eq_commandWord_raw, opField_commandWord, argField_commandWord] at hsel
  obtain ⟨hop, harg⟩ := hsel
  obtain ⟨-, -, hform⟩ := opcodeRow_bits r hr
  calc readLine (asmText i)
      = readLine (r.mnemonic.toList ++ (argTexts r.form i.raw.arg).flatMap (' ' :: ·)) := by
        rw [asmText, hname, instrOperand_eq_argTexts (hop ▸ hform)]
    _ = readOperand r (argTexts r.form i.raw.arg) := by
        rw [readLine_words (isWord_mnemonic hr) (fun t => isWord_of_mem_argTexts), readWords_mnemonic hr]
    _ = readOperand.fromWord (encode i) := by
        rw [readOperand_argTexts hr harg, ← hop, encode_eq_commandWord_raw]
    _ = .ok (.op i) := fromWord_encode i

end Sys2Proof.Machine
end

/-! The shape of a frame on the wire (R70 to R72): the length of escaped content, and where it holds an ESCAPE. That it holds no
delimiter is `delim_not_mem_flatMap_escaped`. -/

section
namespace Sys2Proof.Machine

/-- R71: one wire byte, and a second one for each byte that needs an escape. -/
theorem length_escaped (v : Byte) : (escaped v).length = 1 + escapesIn [v] := by
  by_cases hd : v = DELIM
  · simp [escaped, escapesIn, hd]
  · by_cases he : v = ESCAPE
    · simp [escaped, escapesIn, he, show ESCAPE ≠ DELIM by decide]
    · simp [escaped, escapesIn, hd, he]

theorem escapesIn_cons (v : Byte) (content : List Byte) : escapesIn (v :: content) = escapesIn [v] + escapesIn content := by
  rw [escapesIn, ← List.singleton_append, List.countP_append, escapesIn, escapesIn]

theorem length_flatMap_escaped (content : List Byte) :
    (content.flatMap escaped).length = content.length + escapesIn content := by
  induction content with
  | nil => rfl
  | cons v content ih =>
    rw [List.flatMap_cons, List.length_append, ih, length_escaped, escapesIn_cons v content, List.length_cons]
    omega

theorem length_frame (c : Byte) (p : List Byte) :
    (frame c p).length = 4 + p.length + escapesIn (frameContent c p) := by
  rw [frame, List.length_cons, List.length_append, length_flatMap_escaped, length_frameContent, List.length_singleton]
  omega

theorem escapesIn_le_length (content : List Byte) : escapesIn content ≤ content.length := List.countP_le_length

/-- `b` is the second byte of an escape pair (R71). -/
def IsEscapeCode (b : Byte) : Prop := b = ESC_DELIM ∨ b = ESC_ESCAPE

/-- An ESCAPE in the wire form of a byte is the first of a pair. -/
theorem escaped_cases (v : Byte) : (∃ b, IsEscapeCode b ∧ escaped v = [ESCAPE, b]) ∨ (v ≠ ESCAPE ∧ escaped v = [v]) := by
  by_cases hd : v = DELIM
  · exact .inl ⟨ESC_DELIM, .inl rfl, by rw [escaped, if_pos hd]⟩
  · by_cases he : v = ESCAPE
    · exact .inl ⟨ESC_ESCAPE, .inr rfl, by rw [escaped, if_neg hd, if_pos he]⟩
    · exact .inr ⟨he, by rw [escaped, if_neg hd, if_neg he]⟩

theorem escape_ne_of_isEscapeCode {b : Byte} (h : IsEscapeCode b) : b ≠ ESCAPE := by
  rcases h with rfl | rfl <;> decide

/-- R72: in escaped content an ESCAPE stands directly before the code of its pair. -/
theorem escape_followed_in_content {content : List Byte} {k : Nat} (h : (content.flatMap escaped)[k]? = some ESCAPE) :
    ∃ b, IsEscapeCode b ∧ (content.flatMap escaped)[k + 1]? = some b := by
  induction content generalizing k with
  | nil => simp at h
  | cons v content ih =>
    rw [List.flatMap_cons] at h ⊢
    obtain ⟨b, hb, hv⟩ | ⟨hne, hv⟩ := escaped_cases v <;> rw [hv] at h ⊢
    · match k with
      | 0 => exact ⟨b, hb, rfl⟩
      | 1 => exact absurd (Option.some.inj h) (escape_ne_of_isEscapeCode hb)
      | k + 2 => exact ih h
    · match k with
      | 0 => exact absurd (Option.some.inj h) hne
      | k + 1 => exact ih h

/-- A byte of a frame is a delimiter at one of its two ends, or a byte of the escaped content. -/
theorem frame_getElem?_cases {c b : Byte} {p : List Byte} {k : Nat} (h : (frame c p)[k]? = some b) :
    (b = DELIM ∧ (k = 0 ∨ k + 1 = (frame c p).length)) ∨
      ∃ j, k = j + 1 ∧ ((frameContent c p).flatMap escaped)[j]? = some b := by
  cases k with
  | zero => exact .inl ⟨(Option.some.inj h).symm, .inl rfl⟩
  | succ j =>
    rw [frame, List.getElem?_cons_succ] at h
    by_cases hj : j < ((frameContent c p).flatMap escaped).length
    · rw [List.getElem?_append_left hj] at h
      exact .inr ⟨j, rfl, h⟩
    · rw [List.getElem?_append_right (by omega)] at h
      obtain ⟨hlast, hb⟩ := List.getElem?_eq_some_iff.mp h
      rw [List.length_singleton] at hlast
      refine .inl ⟨by simpa using hb.symm, .inr ?_⟩
      rw [frame, List.length_cons, List.length_append, List.length_singleton]
      omega

/-- A byte of the escaped content is the frame's next one. -/
theorem frame_getElem?_succ_of_content {c b : Byte} {p : List Byte} {j : Nat}
    (h : ((frameContent c p).flatMap escaped)[j]? = some b) : (frame c p)[j + 1]? = some b := by
  rw [frame, List.getElem?_cons_succ, List.getElem?_append_left (List.getElem?_eq_some_iff.mp h).1, h]

/-- R72: no delimiter inside a frame. -/
theorem frame_delim_at_ends {c : Byte} {p : List Byte} {k : Nat} (h : (frame c p)[k]? = some DELIM) :
    k = 0 ∨ k + 1 = (frame c p).length := by
  obtain ⟨-, hends⟩ | ⟨j, -, hj⟩ := frame_getElem?_cases h
  · exact hends
  · exact absurd (List.mem_of_getElem? hj) (delim_not_mem_flatMap_escaped _)

/-- R72: every ESCAPE of a frame stands before the code of its pair. -/
theorem frame_escape_followed {c : Byte} {p : List Byte} {k : Nat} (h : (frame c p)[k]? = some ESCAPE) :
    ∃ b, IsEscapeCode b ∧ (frame c p)[k + 1]? = some b := by
  obtain ⟨heq, -⟩ | ⟨j, rfl, hj⟩ := frame_getElem?_cases h
  · exact absurd heq (by decide)
  · obtain ⟨b, hb, hnext⟩ := escape_followed_in_content hj
    exact ⟨b, hb, frame_getElem?_succ_of_content hnext⟩

/-- Settles O41: the length counts the content and its escapes, and the content between the delimiters is escaped. -/
theorem frameShapeOnWire : Obligations.FrameShapeOnWire := by
  intro c p
  have hlen := length_frame c p
  have hescapes : escapesIn (frameContent c p) ≤ p.length + 2 := by
    rw [← length_frameContent c p]; exact escapesIn_le_length _
  refine ⟨hlen, by omega, fun hp => by omega, fun k => frame_delim_at_ends, fun k hk => ?_⟩
  obtain ⟨b, rfl | rfl, hnext⟩ := frame_escape_followed hk
  · exact .inl hnext
  · exact .inr hnext

end Sys2Proof.Machine
end

/-! Operations presented in sequence at the port (R57, R59, R84): a sequence runs its operations one after the other, and FEED
is `feedAll` on the decoder, response for response. -/

section
namespace Sys2Proof.Machine

theorem exec_pending {i : Instr} {s t : State} (h : exec i s = .next t) : t.pending = s.pending := by
  obtain ⟨u, _, hu, hpending, -⟩ := operationsTouchOwnUnit i s
  cases hu.symm.trans h
  exact hpending

theorem runOps_nil (s : State) : runOps [] s = .next { s with pending := [] } := rfl

/-- The first operation of a sequence runs with the others waiting, and the others run from where it leads. -/
theorem runOps_cons {i : Instr} {ops : List Instr} {s t : State} (h : exec i (s.offering ops) = .next t) :
    runOps (i :: ops) s = runOps ops t := by
  have hstep : step (s.offering (i :: ops)) = .next t := (step_of_ok rfl (decode_encode i)).trans h
  have hpending : t.pending = eventsOf ops := exec_pending h
  rw [runOps, List.length_cons, run_succ _ hstep, runOps, State.offering, State.setPending, ← hpending]

/-- The same for an operation of the decoder. -/
theorem runOps_cons_onDec {i : Instr} {f : DecUnit → DecUnit × Reply} (h : ∀ s, exec i s = onDec f s) (ops : List Instr)
    (s : State) :
    runOps (i :: ops) s = runOps ops { s with
      dec := (f s.dec).1, responses := s.responses ++ [responseWord (f s.dec).2] } := by
  have hfirst := (h (s.offering ops)).trans (onDec_eq f _)
  exact (runOps_cons hfirst).trans rfl

/-- The same for an operation of the encoder. -/
theorem runOps_cons_onEnc {i : Instr} {f : EncUnit → EncUnit × Reply} (h : ∀ s, exec i s = onEnc f s) (ops : List Instr)
    (s : State) :
    runOps (i :: ops) s = runOps ops { s with
      enc := (f s.enc).1, responses := s.responses ++ [responseWord (f s.enc).2] } := by
  have hfirst := (h (s.offering ops)).trans (onEnc_eq f _)
  exact (runOps_cons hfirst).trans rfl

/-- FEED (R84) is the DEC_BYTE operations of its bytes on the decoder alone. -/
theorem runOps_feed (bytes : List Byte) (s : State) :
    runOps (expandPseudo (.feed bytes)) s = .next { s with
      dec := (feedAll Config.decBufMax bytes s.dec).1, pending := [],
      responses := s.responses ++ (feedAll Config.decBufMax bytes s.dec).2.map responseWord } := by
  induction bytes generalizing s with
  | nil => simp [expandPseudo, runOps_nil]
  | cons b bytes ih =>
    refine (runOps_cons_onDec (exec_decByte b) _ s).trans ((ih _).trans ?_)
    simp only [feedAll_cons, List.map_cons, List.append_assoc, List.singleton_append]

/-- FEED, from what the stream does to the decoder. -/
theorem runOps_feed_of_feedAll {bytes : List Byte} {s : State} {d : DecUnit} {replies : List Reply} {log : List Word}
    (h : feedAll Config.decBufMax bytes s.dec = (d, replies)) (hlog : replies.map responseWord = log) :
    runOps (expandPseudo (.feed bytes)) s = .next { s with dec := d, pending := [], responses := s.responses ++ log } := by
  rw [runOps_feed, h, hlog]

theorem map_responseWord_notDone (n : Nat) :
    (List.replicate n (plainReply .notDone)).map responseWord = List.replicate n 0x1000#16 := by
  rw [List.map_replicate, responseWord_notDone]

/-- A length below 512 is answered as it is (R80). -/
theorem responseWord_ok_ofNat {n : Nat} (h : n < 512) : responseWord ⟨.ok, BitVec.ofNat 9 n⟩ = responseOf 0 n := by
  rw [responseWord_eq, BitVec.toNat_ofNat, Nat.mod_eq_of_lt h]; rfl

end Sys2Proof.Machine
end

/-! Frames fed to the decoder (R102, R104, R116, R117): the frame that is delivered, the frame lost after a cut one, and the
frame that is too long. -/

section
namespace Sys2Proof.Machine

/-! Completion of a frame by a delimiter (R104, R108 to R111). -/

/-- R108: a delimiter at an empty buffer. -/
theorem decFeed_delim_empty {d : DecUnit} {cap : Nat} (h : d.state = .inPacket) (hcap : 0 < cap) (hlen : d.len = 0#9) :
    decFeed cap DELIM d = (d, plainReply .notDone) := by
  rw [decFeed_delim h (by rw [hlen]; exact hcap), decComplete, if_pos hlen]

/-- A decoder at rest, in IDLE or in an empty frame, opens a frame at a delimiter (R101, R108). -/
theorem decFeed_delim_of_rest {d : DecUnit} {cap : Nat} (hcap : 0 < cap)
    (h : d.state = .idle ∨ (d.state = .inPacket ∧ d.len = 0#9)) :
    decFeed cap DELIM d = (decOpen d, plainReply .notDone) := by
  obtain hidle | ⟨hstate, hlen⟩ := h
  · exact decFeed_idle_delim hidle cap
  · have hopen : decOpen d = d := by rw [decOpen, ← hstate, ← hlen]
    rw [decFeed_delim_empty hstate hcap hlen, hopen]

/-- R104: completing a non-empty frame ends it, with a result other than NOT_DONE. -/
theorem decComplete_nonempty {d : DecUnit} (h : d.len ≠ 0#9) :
    (decComplete d).1.state = .idle ∧ (decComplete d).2.code ≠ .notDone := by
  rw [decComplete, if_neg h]
  split
  · exact ⟨rfl, ResultCode.noConfusion⟩
  split
  · exact ⟨rfl, ResultCode.noConfusion⟩
  · exact ⟨rfl, ResultCode.noConfusion⟩

/-- R102 and R104: a delimiter at a non-empty buffer ends the frame, with a result other than NOT_DONE. -/
theorem decFeed_delim_nonempty {d : DecUnit} (cap : Nat) (h : d.state = .inPacket) (hlen : d.len ≠ 0#9) :
    (decFeed cap DELIM d).1.state = .idle ∧ (decFeed cap DELIM d).2.code ≠ .notDone := by
  by_cases hfull : cap ≤ d.len.toNat
  · rw [decFeed_full h hfull]
    exact ⟨rfl, ResultCode.noConfusion⟩
  · rw [decFeed_delim h (by omega)]
    exact decComplete_nonempty hlen

/-- Settles O23: a decoder at rest opens a frame at the leading delimiter (`decFeed_delim_of_rest`), and a frame that fits the
buffer is delivered (`feedAll_frame_of_fits`). -/
theorem fedFrameDeliversPacket : Obligations.FedFrameDeliversPacket := by
  intro s c p hp hrest
  have hfeed := feedAll_frame_of_fits (c := c) (p := p) le_rfl (decFeed_delim_of_rest (by decide) hrest)
    (by omega)
  refine ⟨_, runOps_feed_of_feedAll hfeed ?_, rfl, rfl, rfl, ?_, ?_, rfl, rfl, rfl⟩
  · rw [List.map_append, map_responseWord_notDone, List.map_singleton, responseWord_ok_ofNat (by omega)]
  · simp only [decDeliver, BitVec.toNat_ofNat]; omega
  · exact take_writeFrom_zero p s.dec.pktPayload hp

/-! The frame after a cut one (R116). -/

/-- To an idle decoder the rest of a frame is noise, and its trailing delimiter opens an empty frame. -/
theorem feedAll_idle_frame_rest {d : DecUnit} (h : d.state = .idle) (cap : Nat) {bs : List Byte} (hbs : DELIM ∉ bs) :
    feedAll cap (bs ++ [DELIM]) d = (decOpen d, List.replicate (bs.length + 1) (plainReply .notDone)) := by
  rw [feedAll_append, feedAll_idle_noise h cap hbs, feedAll_cons, decFeed_idle_delim h, feedAll_nil, List.replicate_succ']

/-- Settles O24: the leading delimiter ends the cut frame (`decFeed_delim_nonempty`), and to the idle decoder the rest of the
frame is noise but for its trailing delimiter (`feedAll_idle_frame_rest`). -/
theorem cutFrameLosesNextFrame : Obligations.CutFrameLosesNextFrame := by
  intro s u c p hstate hlen hu
  rw [exec_decByte, onDec_eq] at hu
  cases hu
  obtain ⟨hidle, hcode⟩ := decFeed_delim_nonempty Config.decBufMax hstate hlen
  have hbits : ∀ code : ResultCode, code ≠ .notDone → codeBits code ≠ 1#4 := by intro code; cases code <;> decide
  refine ⟨hidle, _, ?_, rfl, ?_⟩
  · rw [responseCode_responseWord]
    exact hbits _ hcode
  · have hfeed : feedAll Config.decBufMax (frame c p) s.dec
        = (decOpen (decFeed Config.decBufMax DELIM s.dec).1, (decFeed Config.decBufMax DELIM s.dec).2 ::
            List.replicate ((frame c p).length - 1) (plainReply .notDone)) := by
      rw [frame, feedAll_cons, feedAll_idle_frame_rest hidle _ (delim_not_mem_flatMap_escaped _)]
      simp
    refine runOps_feed_of_feedAll hfeed ?_
    rw [List.map_cons, map_responseWord_notDone]
    rfl

/-! Frames that are too long (R102, R211, R215). -/

/-- R102: at a full buffer a delimiter ends the frame; any other byte ends it earlier, and then the frame's own trailing
delimiter opens an empty one. -/
theorem feedAll_full_delim_state {d : DecUnit} {cap : Nat} (h : d.state = .inPacket) (hfull : cap ≤ d.len.toNat)
    {bs : List Byte} (hbs : DELIM ∉ bs) :
    (feedAll cap (bs ++ [DELIM]) d).1 = if bs = [] then { d with state := .idle } else decOpen d := by
  cases bs with
  | nil => rw [List.nil_append, feedAll_full h hfull DELIM List.not_mem_nil, if_pos rfl]
  | cons b bs =>
    rw [if_neg (List.cons_ne_nil b bs), feedAll_append, feedAll_full h hfull b (mt (List.mem_cons_of_mem b) hbs),
      feedAll_cons, decFeed_idle_delim rfl]
    rfl

/-- A frame whose content fills the buffer leaves that buffer: in IDLE when its trailing delimiter met the full buffer, in an
empty frame when a byte before it did. -/
theorem feedAll_frame_overlong_state {d : DecUnit} {cap : Nat} {c : Byte} {p : List Byte} (hcap : cap ≤ 259)
    (hopen : decFeed cap DELIM d = (decOpen d, plainReply .notDone)) (hlong : cap ≤ p.length + 2) :
    (feedAll cap (frame c p) d).1
      = if ((frameContent c p).drop cap).flatMap escaped = []
        then { decCollect ((frameContent c p).take cap) (decOpen d) with state := .idle }
        else decOpen (decCollect ((frameContent c p).take cap) (decOpen d)) := by
  have htaken : ((frameContent c p).take cap).length = cap := by
    rw [List.length_take, length_frameContent]; omega
  have hholds := decHolds_collect_open d (htaken.trans_le hcap)
  have hroom : (decOpen d).len.toNat + ((frameContent c p).take cap).length ≤ cap := by
    rw [htaken]; simp [decOpen]
  have hsplit : (frameContent c p).flatMap escaped
      = ((frameContent c p).take cap).flatMap escaped ++ ((frameContent c p).drop cap).flatMap escaped := by
    rw [← List.flatMap_append, List.take_append_drop]
  rw [frame, hsplit, feedAll_cons, hopen, List.append_assoc, feedAll_append, feedAll_content hcap rfl hroom]
  exact feedAll_full_delim_state rfl (by rw [hholds.len, htaken]) (delim_not_mem_flatMap_escaped _)

theorem flatMap_escaped_eq_nil_iff (content : List Byte) : content.flatMap escaped = [] ↔ content = [] := by
  rw [← List.length_eq_zero_iff, length_flatMap_escaped, ← List.length_eq_zero_iff]
  have := escapesIn_le_length content
  omega

/-- Settles O26: with 257 payload bytes the content is exactly the buffer's 259, with more some of it is left over when the
buffer is full (`feedAll_frame_overlong_state`, `feedAll_frame_overlong_replies`). -/
theorem overlongPayloadRejected : Obligations.OverlongPayloadRejected := by
  intro s c p hidle
  have hopen := decFeed_idle_delim hidle 259
  have hcontent := length_frameContent c p
  refine ⟨fun hp => ?_, fun hp => ?_⟩
  · have hstate : (feedAll 259 (frame c p) s.dec).1
        = { s.dec with state := .idle, buf := writeFrom s.dec.buf 0 (frameContent c p), len := 259#9 } := by
      rw [feedAll_frame_overlong_state le_rfl hopen (by omega), List.drop_of_length_le (by omega),
        List.take_of_length_le (by omega), if_pos List.flatMap_nil]
      simp [decCollect, decOpen, hp]
    have hreplies : (feedAll 259 (frame c p) s.dec).2
        = List.replicate ((frame c p).length - 1) (plainReply .notDone) ++ [plainReply .tooMuchData] := by
      rw [feedAll_frame_overlong_replies le_rfl hopen (by omega), List.drop_of_length_le (by omega),
        List.take_of_length_le (by omega)]
      simp [frame, Nat.add_comm]
    refine ⟨_, runOps_feed_of_feedAll (Prod.ext hstate hreplies) ?_⟩
    rw [List.map_append, map_responseWord_notDone, List.map_singleton, responseWord_tooMuchData]
  · have hrest : ((frameContent c p).drop 259).flatMap escaped ≠ [] := by
      rw [Ne, flatMap_escaped_eq_nil_iff, List.drop_eq_nil_iff]; omega
    have hstate := feedAll_frame_overlong_state (c := c) (p := p) le_rfl hopen (by omega)
    have hreplies := feedAll_frame_overlong_replies (c := c) (p := p) le_rfl hopen (by omega)
    rw [if_neg hrest] at hstate
    have hfeed := runOps_feed_of_feedAll (Prod.ext hstate hreplies) rfl
    rw [List.map_append, List.map_cons, map_responseWord_notDone, map_responseWord_notDone, responseWord_tooMuchData,
      List.append_cons _ (0x3000#16)] at hfeed
    refine ⟨_, _, _, ?_, List.length_pos_iff.mpr hrest, hfeed⟩
    have hsplit := congrArg (fun content => (content.flatMap escaped).length) (List.take_append_drop 259 (frameContent c p))
    simp only [List.flatMap_append, List.length_append] at hsplit
    simp only [frame, List.length_cons, List.length_append, List.length_nil]
    omega

end Sys2Proof.Machine
end

/-! The encoder's wire sequence (R144 to R146, R150, R153): between two items (`ItemsAhead`), with an item taken (`ItemTaken`),
and ENC_NEXT as sending the first byte owed (`encProduce_sends`). -/

section
namespace Sys2Proof.Machine

theorem length_loadedPayload {e : EncUnit} (h : e.len.toNat ≤ 256) : (loadedPayload e).length = e.len.toNat := by
  rw [loadedPayload, List.length_take, Bytes.length_cells]
  exact Nat.min_eq_left h

/-- The whole payload loaded, as a prefix of itself. -/
theorem take_loadedPayload {e : EncUnit} : (loadedPayload e).take e.len.toNat = loadedPayload e := by
  rw [loadedPayload, List.take_take, Nat.min_self]

/-! `itemsLeft` and `foldedItems` by phase. -/

theorem itemsLeft_cmd {e : EncUnit} (h : e.phase = .cmd) :
    itemsLeft e = e.cmd :: (loadedPayload e ++ [frameChecksum e.cmd (loadedPayload e)]) := by
  simp only [itemsLeft, h, frameContent]

theorem itemsLeft_payload {e : EncUnit} (h : e.phase = .payload) :
    itemsLeft e = (loadedPayload e).drop e.idx.toNat ++ [frameChecksum e.cmd (loadedPayload e)] := by
  simp only [itemsLeft, h]

theorem itemsLeft_crc {e : EncUnit} (h : e.phase = .crc) : itemsLeft e = [frameChecksum e.cmd (loadedPayload e)] := by
  simp only [itemsLeft, h]

theorem foldedItems_cmd {e : EncUnit} (h : e.phase = .cmd) : foldedItems e = if e.pendValid then [e.cmd] else [] := by
  simp only [foldedItems, h]

theorem foldedItems_payload {e : EncUnit} (h : e.phase = .payload) :
    foldedItems e = e.cmd :: (loadedPayload e).take (e.idx.toNat + e.pendValid.toNat) := by
  simp only [foldedItems, h]

theorem foldedItems_crc {e : EncUnit} (h : e.phase = .crc) : foldedItems e = e.cmd :: loadedPayload e := by
  simp only [foldedItems, h]

/-! The encoder's invariants, at rest and between two items. -/

/-- R13 and R32 at rest: out of a sequence only the bound on `enc_len` is asked of the encoder. -/
theorem encInv_of_rest {e : EncUnit} (hphase : e.phase = .idle ∨ e.phase = .loading) (hpend : e.pendValid = false)
    (hlen : e.len.toNat ≤ 256) : EncInv e := by
  have hseq : inSequence e.phase = false := by obtain h | h := hphase <;> rw [h] <;> rfl
  exact {
    phase_legal := by obtain h | h := hphase <;> rw [h] <;> exact EncPhase.noConfusion
    len_le := hlen
    idx_lt := fun h => by rw [h] at hseq; cases hseq
    idx_le := fun h => by rw [h] at hseq; cases hseq
    pend_phase := fun h => by rw [hpend] at h; cases h
    pend_item := fun h => by rw [hpend] at h; cases h
    crc_folded := fun h => by rw [h] at hseq; cases hseq }

/-- At the start of an item, or of END: no escape byte is owed and `rest` are the items left (R140, R153). -/
structure ItemsAhead (e : EncUnit) (rest : List Byte) : Prop where
  in_sequence : inSequence e.phase = true
  started : e.phase ≠ .start
  pend : e.pendValid = false
  len_le : e.len.toNat ≤ 256
  idx_lt : e.phase = .payload → e.idx.toNat < e.len.toNat
  idx_le : e.idx.toNat ≤ e.len.toNat
  items : itemsLeft e = rest
  crc : e.crc = crc8 (foldedItems e) CRC_INIT

theorem ItemsAhead.encInv {e : EncUnit} {rest : List Byte} (h : ItemsAhead e rest) : EncInv e where
  phase_legal hphase := by have := h.in_sequence; rw [hphase] at this; cases this
  len_le := h.len_le
  idx_lt := h.idx_lt
  idx_le _ := h.idx_le
  pend_phase hpend := by rw [h.pend] at hpend; cases hpend
  pend_item hpend := by rw [h.pend] at hpend; cases hpend
  crc_folded _ := h.crc

/-- The encoder right after ENC_GO (R143): no item is taken. -/
theorem encInv_of_start {e : EncUnit} (hphase : e.phase = .start) (hpend : e.pendValid = false) (hlen : e.len.toNat ≤ 256)
    (hidx : e.idx = 0#9) (hcrc : e.crc = CRC_INIT) : EncInv e where
  phase_legal := by rw [hphase]; exact EncPhase.noConfusion
  len_le := hlen
  idx_lt h := by rw [hphase] at h; cases h
  idx_le _ := by rw [hidx]; exact Nat.zero_le _
  pend_phase h := by rw [hpend] at h; cases h
  pend_item h := by rw [hpend] at h; cases h
  crc_folded _ := by rw [hcrc, foldedItems, hphase]; rfl

/-- After START what is owed is the wire form of the items left, less a byte of it already sent, and the trailing delimiter
(R150). -/
theorem bytesOwed_after_start {e : EncUnit} (hseq : inSequence e.phase = true) (hstart : e.phase ≠ .start) :
    bytesOwed e = ((itemsLeft e).flatMap escaped).drop e.pendValid.toNat ++ [DELIM] := by
  cases h : e.phase with
  | cmd | payload | crc => simp only [bytesOwed, h]
  | ending => simp [bytesOwed, itemsLeft, h]
  | start => exact absurd h hstart
  | idle | loading | invalid => rw [h] at hseq; cases hseq

theorem ItemsAhead.bytesOwed_eq {e : EncUnit} {rest : List Byte} (h : ItemsAhead e rest) :
    bytesOwed e = rest.flatMap escaped ++ [DELIM] := by
  rw [bytesOwed_after_start h.in_sequence h.started, h.items, h.pend]; rfl

/-- In the middle of item `v`: it is folded into `enc_crc`, and `rest` are the items after it (R145, R153). Whether the second
byte of an escape pair is still owed is left open. -/
structure ItemTaken (e : EncUnit) (v : Byte) (rest : List Byte) : Prop where
  phase : e.phase = .cmd ∨ e.phase = .payload ∨ e.phase = .crc
  len_le : e.len.toNat ≤ 256
  idx_lt : e.phase = .payload → e.idx.toNat < e.len.toNat
  idx_le : e.idx.toNat ≤ e.len.toNat
  items : itemsLeft e = v :: rest
  crc : e.crc = crc8 (foldedItems { e with pendValid := true }) CRC_INIT

/-! R146: `advance()` leaves the item for the next one. -/

theorem encAdvance_cmd {e : EncUnit} (h : e.phase = .cmd) :
    encAdvance e = { e with idx := 0#9, phase := if e.len = 0#9 then .crc else .payload } := by
  simp only [encAdvance, h]

theorem encAdvance_payload {e : EncUnit} (h : e.phase = .payload) :
    encAdvance e = { e with idx := e.idx + 1#9, phase := if e.idx + 1#9 = e.len then .crc else .payload } := by
  simp only [encAdvance, h]

theorem encAdvance_crc {e : EncUnit} (h : e.phase = .crc) : encAdvance e = { e with phase := .ending } := by
  simp only [encAdvance, h]

theorem ItemTaken.advance_cmd {e : EncUnit} {v : Byte} {rest : List Byte} (h : ItemTaken e v rest)
    (hphase : e.phase = .cmd) : ItemsAhead (encAdvance { e with pendValid := false }) rest := by
  have hitems : loadedPayload e ++ [frameChecksum e.cmd (loadedPayload e)] = rest := by
    have hitems := h.items
    rw [itemsLeft_cmd hphase] at hitems
    exact (List.cons.inj hitems).2
  have hcrc : e.crc = crc8 [e.cmd] CRC_INIT := by
    rw [h.crc, foldedItems_cmd (by exact hphase), if_pos rfl]
  by_cases hlen : e.len = 0#9
  · have hloaded : loadedPayload e = [] := by simp [loadedPayload, hlen]
    rw [encAdvance_cmd (by exact hphase), if_pos hlen]
    exact {
      in_sequence := rfl, started := EncPhase.noConfusion, pend := rfl, len_le := h.len_le
      idx_lt := EncPhase.noConfusion, idx_le := Nat.zero_le _
      items := by rw [← hitems, hloaded]; exact congrArg (fun p => [frameChecksum e.cmd p]) hloaded
      crc := by rw [← hloaded] at hcrc; exact hcrc }
  · have hpos : 0 < e.len.toNat := by bv_omega
    rw [encAdvance_cmd (by exact hphase), if_neg hlen]
    exact {
      in_sequence := rfl, started := EncPhase.noConfusion, pend := rfl, len_le := h.len_le
      idx_lt := fun _ => hpos, idx_le := Nat.zero_le _
      items := hitems
      crc := hcrc }

theorem ItemTaken.advance_payload {e : EncUnit} {v : Byte} {rest : List Byte} (h : ItemTaken e v rest)
    (hphase : e.phase = .payload) : ItemsAhead (encAdvance { e with pendValid := false }) rest := by
  have hlen := h.len_le
  have hlt := h.idx_lt hphase
  have hidx : (e.idx + 1#9).toNat = e.idx.toNat + 1 := by bv_omega
  have hne : (loadedPayload e).drop e.idx.toNat ≠ [] := by
    rw [Ne, List.drop_eq_nil_iff, length_loadedPayload hlen]; omega
  have hitems : (loadedPayload e).drop (e.idx.toNat + 1) ++ [frameChecksum e.cmd (loadedPayload e)] = rest := by
    have hitems := h.items
    rw [itemsLeft_payload hphase] at hitems
    rw [← List.tail_drop, ← List.tail_append_of_ne_nil hne, hitems, List.tail_cons]
  have hcrc : e.crc = crc8 (e.cmd :: (loadedPayload e).take (e.idx.toNat + 1)) CRC_INIT := by
    rw [h.crc, foldedItems_payload (by exact hphase)]
    rfl
  by_cases hlast : e.idx + 1#9 = e.len
  · have htoNat : e.idx.toNat + 1 = e.len.toNat := by rw [← hidx, hlast]
    rw [htoNat, List.drop_of_length_le (length_loadedPayload hlen).le] at hitems
    rw [htoNat, take_loadedPayload] at hcrc
    rw [encAdvance_payload (by exact hphase), if_pos hlast]
    exact {
      in_sequence := rfl, started := EncPhase.noConfusion, pend := rfl, len_le := hlen
      idx_lt := EncPhase.noConfusion, idx_le := (congrArg BitVec.toNat hlast).le
      items := hitems
      crc := hcrc }
  · have hnext : (e.idx + 1#9).toNat < e.len.toNat := by bv_omega
    rw [← hidx] at hitems hcrc
    rw [encAdvance_payload (by exact hphase), if_neg hlast]
    exact {
      in_sequence := rfl, started := EncPhase.noConfusion, pend := rfl, len_le := hlen
      idx_lt := fun _ => hnext, idx_le := hnext.le
      items := hitems
      crc := hcrc }

theorem ItemTaken.advance_crc {e : EncUnit} {v : Byte} {rest : List Byte} (h : ItemTaken e v rest)
    (hphase : e.phase = .crc) : ItemsAhead (encAdvance { e with pendValid := false }) rest := by
  have hitems : [] = rest := by
    have hitems := h.items
    rw [itemsLeft_crc hphase] at hitems
    exact (List.cons.inj hitems).2
  have hcrc : e.crc = crc8 (e.cmd :: loadedPayload e) CRC_INIT := by
    rw [h.crc, foldedItems_crc (by exact hphase)]
    rfl
  rw [encAdvance_crc (by exact hphase)]
  exact {
    in_sequence := rfl, started := EncPhase.noConfusion, pend := rfl, len_le := h.len_le
    idx_lt := EncPhase.noConfusion, idx_le := h.idx_le
    items := hitems
    crc := hcrc }

theorem ItemTaken.advance {e : EncUnit} {v : Byte} {rest : List Byte} (h : ItemTaken e v rest) :
    ItemsAhead (encAdvance { e with pendValid := false }) rest := by
  obtain hphase | hphase | hphase := h.phase
  · exact h.advance_cmd hphase
  · exact h.advance_payload hphase
  · exact h.advance_crc hphase

/-! ENC_NEXT in a sequence (R144, R145, R150). -/

/-- `r` sends the first byte of `owed`, and the encoder it leaves owes the rest, still in sequence or back in IDLE. -/
def SendsFirst (owed : List Byte) (r : EncUnit × Reply) : Prop :=
  ∃ b e, r = (e, okReply b) ∧ owed = b :: bytesOwed e ∧ EncInv e ∧ (inSequence e.phase = true ∨ e.phase = .idle)

/-- The last byte of an item goes out, and the item is finished. -/
theorem ItemTaken.sends_last {e : EncUnit} {v : Byte} {rest : List Byte} (h : ItemTaken e v rest) (b : Byte) :
    SendsFirst (b :: (rest.flatMap escaped ++ [DELIM])) (encEmit b (encAdvance { e with pendValid := false })) := by
  have hahead := h.advance
  exact ⟨b, _, rfl, by rw [hahead.bytesOwed_eq], hahead.encInv, .inl hahead.in_sequence⟩

theorem ItemTaken.in_sequence {e : EncUnit} {v : Byte} {rest : List Byte} (h : ItemTaken e v rest) :
    inSequence e.phase = true ∧ e.phase ≠ .start ∧ e.phase ≠ .invalid := by
  obtain hphase | hphase | hphase := h.phase <;> rw [hphase] <;> decide

/-- The first byte of an escape pair goes out, and the second is owed. -/
theorem ItemTaken.sends_escape {e : EncUnit} {v code : Byte} {rest : List Byte} (h : ItemTaken e v rest)
    (hcode : escaped v = [ESCAPE, code]) :
    SendsFirst (escaped v ++ (rest.flatMap escaped ++ [DELIM]))
      (encEmit ESCAPE { e with pend := code, pendValid := true }) := by
  obtain ⟨hseq, hstart, hlegal⟩ := h.in_sequence
  have hitems : itemsLeft { e with pend := code, pendValid := true } = v :: rest := h.items
  refine ⟨ESCAPE, _, rfl, ?_, ?_, .inl hseq⟩
  · rw [bytesOwed_after_start (by exact hseq) (by exact hstart), hitems, List.flatMap_cons, hcode]
    rfl
  · exact {
      phase_legal := hlegal, len_le := h.len_le, idx_lt := h.idx_lt, idx_le := fun _ => h.idx_le
      pend_phase := fun _ => h.phase
      pend_item := fun _ => ⟨v, by rw [hitems]; rfl, hcode⟩
      crc_folded := fun _ => h.crc }

/-- R145: an item taken goes out as its wire form. -/
theorem ItemTaken.sends_escaped {e : EncUnit} {v : Byte} {rest : List Byte} (h : ItemTaken e v rest)
    (hpend : e.pendValid = false) : SendsFirst (escaped v ++ (rest.flatMap escaped ++ [DELIM])) (encEmitEscaped v e) := by
  have hsame : { e with pendValid := false } = e := by rw [← hpend]
  unfold encEmitEscaped
  split
  next hd => exact h.sends_escape (by rw [escaped, if_pos hd])
  next hd =>
    split
    next he => exact h.sends_escape (by rw [escaped, if_neg hd, if_pos he])
    next he =>
      have hlast := h.sends_last v
      rw [hsame] at hlast
      rwa [escaped, if_neg hd, if_neg he]

/-! The item that each phase takes (R144, R153). -/

theorem EncInv.itemTaken_of_pend {e : EncUnit} (h : EncInv e) (hpend : e.pendValid = true) :
    ∃ v rest, ItemTaken e v rest ∧ escaped v = [ESCAPE, e.pend] := by
  have hphase := h.pend_phase hpend
  have hseq : inSequence e.phase = true := by obtain hp | hp | hp := hphase <;> rw [hp] <;> rfl
  have hsame : { e with pendValid := true } = e := by rw [← hpend]
  obtain ⟨v, hv, hcode⟩ := h.pend_item hpend
  obtain ⟨rest, hitems⟩ := List.head?_eq_some_iff.mp hv
  exact ⟨v, rest, {
    phase := hphase, len_le := h.len_le, idx_lt := h.idx_lt, idx_le := h.idx_le hseq, items := hitems
    crc := by rw [hsame]; exact h.crc_folded hseq }, hcode⟩

theorem EncInv.itemTaken_cmd {e : EncUnit} (h : EncInv e) (hphase : e.phase = .cmd) (hpend : e.pendValid = false) :
    ItemTaken { e with crc := crc8Update e.crc e.cmd } e.cmd
      (loadedPayload e ++ [frameChecksum e.cmd (loadedPayload e)]) where
  phase := .inl hphase
  len_le := h.len_le
  idx_lt := h.idx_lt
  idx_le := h.idx_le (by rw [hphase]; rfl)
  items := itemsLeft_cmd hphase
  crc := by
    have hcrc := h.crc_folded (by rw [hphase]; rfl)
    rw [foldedItems_cmd hphase, hpend] at hcrc
    rw [foldedItems_cmd (by exact hphase), hcrc]
    rfl

theorem EncInv.itemTaken_payload {e : EncUnit} (h : EncInv e) (hphase : e.phase = .payload) (hpend : e.pendValid = false) :
    ItemTaken { e with crc := crc8Update e.crc (readAt .encPayload e.payload e.idx.toNat) }
      (readAt .encPayload e.payload e.idx.toNat)
      ((loadedPayload e).drop (e.idx.toNat + 1) ++ [frameChecksum e.cmd (loadedPayload e)]) := by
  have hlt := h.idx_lt hphase
  have hlt' : e.idx.toNat < (loadedPayload e).length := by rw [length_loadedPayload h.len_le]; exact hlt
  have hread : readAt .encPayload e.payload e.idx.toNat = (loadedPayload e)[e.idx.toNat] := by
    refine readAt_of_some _ _ ?_
    rw [← List.getElem?_eq_getElem hlt', loadedPayload, List.getElem?_take_of_lt hlt]
  have hcrc := h.crc_folded (by rw [hphase]; rfl)
  rw [foldedItems_payload hphase, hpend] at hcrc
  exact {
    phase := .inr (.inl hphase)
    len_le := h.len_le
    idx_lt := h.idx_lt
    idx_le := hlt.le
    items := by
      rw [itemsLeft_payload (by exact hphase), hread, ← List.cons_append, ← List.drop_eq_getElem_cons hlt']
      rfl
    crc := by
      rw [foldedItems_payload (by exact hphase), hcrc, hread]
      show _ = crc8 (e.cmd :: (loadedPayload e).take (e.idx.toNat + 1)) CRC_INIT
      rw [List.take_succ_eq_append_getElem hlt', ← List.cons_append, crc8_append]
      rfl }

theorem EncInv.itemTaken_crc {e : EncUnit} (h : EncInv e) (hphase : e.phase = .crc) : ItemTaken e e.crc [] := by
  have hcrc := h.crc_folded (by rw [hphase]; rfl)
  rw [foldedItems_crc hphase] at hcrc
  exact {
    phase := .inr (.inr hphase)
    len_le := h.len_le
    idx_lt := h.idx_lt
    idx_le := h.idx_le (by rw [hphase]; rfl)
    items := by rw [itemsLeft_crc hphase, hcrc, frameChecksum]
    crc := by rw [hcrc, foldedItems_crc (by exact hphase)]; rfl }

/-- R144 while an escape byte is owed: it goes out, and the item is finished. -/
theorem encProduce_sends_pend {e : EncUnit} (h : EncInv e) (hpend : e.pendValid = true) :
    SendsFirst (bytesOwed e) (encProduce e) := by
  obtain ⟨v, rest, htaken, hcode⟩ := h.itemTaken_of_pend hpend
  obtain ⟨hseq, hstart, -⟩ := htaken.in_sequence
  have hproduce : encProduce e = encEmitPending e := by
    obtain hphase | hphase | hphase := htaken.phase <;> simp only [encProduce, hphase, encOwedOr, hpend, if_true]
  have howed : bytesOwed e = e.pend :: (rest.flatMap escaped ++ [DELIM]) := by
    rw [bytesOwed_after_start hseq hstart, htaken.items, List.flatMap_cons, hcode, hpend]; rfl
  rw [hproduce, howed]
  exact htaken.sends_last e.pend

/-- R144: with no escape byte owed the phase's own item goes out. -/
theorem encOwedOr_of_no_pend {e : EncUnit} (h : e.pendValid = false) (item : EncUnit → EncUnit × Reply) :
    encOwedOr item e = item e := by
  rw [encOwedOr, h, if_neg Bool.false_ne_true]

/-- An item whose first byte is still owed is owed as its wire form, before the items after it. -/
theorem bytesOwed_of_items {e : EncUnit} {v : Byte} {rest : List Byte} (hseq : inSequence e.phase = true)
    (hstart : e.phase ≠ .start) (hpend : e.pendValid = false) (hitems : itemsLeft e = v :: rest) :
    bytesOwed e = escaped v ++ (rest.flatMap escaped ++ [DELIM]) := by
  rw [bytesOwed_after_start hseq hstart, hpend, hitems, Bool.toNat_false, List.drop_zero, List.flatMap_cons,
    List.append_assoc]

/-- R144, phase CRC: the item in progress goes out as it is. -/
theorem encEmitEscaped_sends {e : EncUnit} {v : Byte} {rest : List Byte} (hpend : e.pendValid = false)
    (htaken : ItemTaken e v rest) : SendsFirst (bytesOwed e) (encEmitEscaped v e) := by
  obtain ⟨hseq, hstart, -⟩ := htaken.in_sequence
  rw [bytesOwed_of_items hseq hstart hpend htaken.items]
  exact htaken.sends_escaped hpend

/-- R144, phases CMD and PAYLOAD: the item is taken into the checksum, which changes nothing owed, and goes out. -/
theorem encTake_sends {e : EncUnit} {v : Byte} {rest : List Byte} (hpend : e.pendValid = false)
    (htaken : ItemTaken { e with crc := crc8Update e.crc v } v rest) : SendsFirst (bytesOwed e) (encTake v e) :=
  encEmitEscaped_sends (e := { e with crc := crc8Update e.crc v }) hpend htaken

/-- R144, phase START: the leading delimiter goes out, and the whole content is owed. -/
theorem encEmit_start_sends {e : EncUnit} (h : EncInv e) (hphase : e.phase = .start) (hpend : e.pendValid = false) :
    SendsFirst (bytesOwed e) (encEmit DELIM { e with phase := .cmd }) := by
  have hseq : inSequence e.phase = true := by rw [hphase]; rfl
  have hfolded : foldedItems e = [] := by simp only [foldedItems, hphase]
  have hahead : ItemsAhead { e with phase := .cmd } (frameContent e.cmd (loadedPayload e)) := {
    in_sequence := rfl, started := EncPhase.noConfusion, pend := hpend, len_le := h.len_le
    idx_lt := EncPhase.noConfusion, idx_le := h.idx_le hseq, items := rfl
    crc := by rw [foldedItems_cmd rfl, hpend, h.crc_folded hseq, hfolded]; rfl }
  have howed : bytesOwed e = DELIM :: ((frameContent e.cmd (loadedPayload e)).flatMap escaped ++ [DELIM]) := by
    simp only [bytesOwed, itemsLeft, hphase]
  rw [howed, ← hahead.bytesOwed_eq]
  exact ⟨DELIM, _, rfl, rfl, hahead.encInv, .inl rfl⟩

/-- R144 with no escape byte owed, phase by phase. -/
theorem encProduce_sends_item {e : EncUnit} (h : EncInv e) (hseq : inSequence e.phase = true) (hpend : e.pendValid = false) :
    SendsFirst (bytesOwed e) (encProduce e) := by
  cases hphase : e.phase with
  | start =>
    simp only [encProduce, hphase, encOwedOr_of_no_pend hpend]
    exact encEmit_start_sends h hphase hpend
  | cmd =>
    simp only [encProduce, hphase, encOwedOr_of_no_pend hpend]
    exact encTake_sends hpend (h.itemTaken_cmd hphase hpend)
  | payload =>
    simp only [encProduce, hphase, encOwedOr_of_no_pend hpend]
    exact encTake_sends hpend (h.itemTaken_payload hphase hpend)
  | crc =>
    simp only [encProduce, hphase, encOwedOr_of_no_pend hpend]
    exact encEmitEscaped_sends hpend (h.itemTaken_crc hphase)
  | ending =>
    simp only [encProduce, bytesOwed, hphase, encOwedOr_of_no_pend hpend]
    exact ⟨DELIM, _, rfl, rfl, encInv_of_rest (.inl rfl) hpend h.len_le, .inr rfl⟩
  | idle | loading | invalid => rw [hphase] at hseq; cases hseq

/-- R144 to R146 and R150: while a sequence is in progress, ENC_NEXT sends the first byte owed and keeps the invariants. -/
theorem encProduce_sends {e : EncUnit} (h : EncInv e) (hseq : inSequence e.phase = true) :
    SendsFirst (bytesOwed e) (encProduce e) := by
  cases hpend : e.pendValid with
  | true => exact encProduce_sends_pend h hpend
  | false => exact encProduce_sends_item h hseq hpend

end Sys2Proof.Machine
end

/-! The block's invariants (R115, R13, R146, R153): they hold at reset, and each unit's operations keep its own. -/

section
namespace Sys2Proof.Machine

/-! The encoder (R141 to R147). -/

/-- At rest no escape byte is owed. -/
theorem EncInv.pendValid_of_rest {e : EncUnit} (h : EncInv e) (hrest : e.phase = .idle ∨ e.phase = .loading) :
    e.pendValid = false := by
  refine Bool.eq_false_iff.mpr fun hpend => ?_
  obtain hp | hp := hrest <;> simpa [hp] using h.pend_phase hpend

theorem encStartLoad_keeps {e : EncUnit} (h : EncInv e) (c : Byte) : EncInv (encStartLoad c e).1 := by
  unfold encStartLoad
  split
  next hidle => exact encInv_of_rest (.inr rfl) (h.pendValid_of_rest (.inl hidle)) (Nat.zero_le _)
  next => exact h

theorem encAppend_keeps {e : EncUnit} (h : EncInv e) (b : Byte) : EncInv (encAppend b e).1 := by
  unfold encAppend
  split
  next hloading =>
    split
    next => exact h
    next hroom =>
      have hlen : (e.len + 1#9).toNat ≤ 256 := by
        have := h.len_le
        simp only [Config.maxPayload] at hroom
        bv_omega
      exact encInv_of_rest (.inr hloading) (h.pendValid_of_rest (.inr hloading)) hlen
  next => exact h

/-- R143: at the start of a sequence no item is taken yet. -/
theorem encStartSequence_keeps {e : EncUnit} (h : EncInv e) : EncInv (encStartSequence e).1 := by
  unfold encStartSequence
  split
  next => exact encInv_of_start rfl rfl h.len_le rfl rfl
  next => exact h

theorem encProduce_keeps {e : EncUnit} (h : EncInv e) : EncInv (encProduce e).1 := by
  by_cases hseq : inSequence e.phase = true
  · obtain ⟨b, e', hproduce, -, hinv, -⟩ := encProduce_sends h hseq
    rw [hproduce]
    exact hinv
  · cases hphase : e.phase with
    | idle | loading => simpa only [encProduce, hphase] using h
    | invalid => exact absurd hphase h.phase_legal
    | start | cmd | payload | crc | ending => rw [hphase] at hseq; exact absurd rfl hseq

theorem encAbandon_keeps {e : EncUnit} (h : EncInv e) : EncInv (encAbandon e).1 :=
  encInv_of_rest (.inl rfl) rfl h.len_le

/-! The decoder (R101 to R112). -/

/-- Outside IN_ESCAPE the invariants are bounds on the two lengths. -/
theorem decInv_of_bounds {d : DecUnit} (h : d.state = .idle ∨ d.state = .inPacket) (hlen : d.len.toNat ≤ 259)
    (hpkt : d.pktValid = true → d.pktLen.toNat ≤ 256) : DecInv d where
  state_legal := by obtain h | h := h <;> rw [h] <;> exact DecState.noConfusion
  len_le := hlen
  escape_room hescape := by obtain h | h := h <;> rw [h] at hescape <;> cases hescape
  pktLen_le := hpkt

/-- R215: recovery keeps the invariants. -/
theorem recoverIdle_keeps {d : DecUnit} (h : DecInv d) (c : ResultCode) : DecInv (recoverIdle c d).1 :=
  decInv_of_bounds (.inl rfl) h.len_le h.pktLen_le

theorem decIdle_keeps {d : DecUnit} (h : DecInv d) (b : Byte) : DecInv (decIdle b d).1 := by
  unfold decIdle
  split
  · exact decInv_of_bounds (.inr rfl) (Nat.zero_le _) h.pktLen_le
  · exact h

/-- R104 with room in the buffer: an accepted frame has at most 258 bytes, and its payload at most 256. -/
theorem decComplete_keeps {d : DecUnit} (h : DecInv d) (hroom : d.len.toNat < 259) : DecInv (decComplete d).1 := by
  unfold decComplete
  split
  next => exact h
  split
  next => exact recoverIdle_keeps h _
  split
  next hzero hone _ =>
    have hpkt : (d.len - 2#9).toNat ≤ 256 := by bv_omega
    exact decInv_of_bounds (.inl rfl) h.len_le fun _ => hpkt
  next => exact decInv_of_bounds (.inl rfl) h.len_le h.pktLen_le

theorem decInPacket_keeps {d : DecUnit} (h : DecInv d) (hstate : d.state = .inPacket) (b : Byte) :
    DecInv (decInPacket 259 b d).1 := by
  unfold decInPacket
  split
  next => exact recoverIdle_keeps h _
  next hroom =>
    split
    next =>
      exact { state_legal := DecState.noConfusion, len_le := h.len_le, escape_room := fun _ => by simp only; omega
              pktLen_le := h.pktLen_le }
    split
    next => exact decComplete_keeps h (by omega)
    next =>
      have hlen : (decAppend b d).len.toNat ≤ 259 := by rw [decAppend_len_toNat (by omega)]; omega
      exact decInv_of_bounds (.inr hstate) hlen h.pktLen_le

theorem decInEscape_keeps {d : DecUnit} (h : DecInv d) (hstate : d.state = .inEscape) (b : Byte) :
    DecInv (decInEscape b d).1 := by
  have hroom := h.escape_room hstate
  have hlen : (decAppend (unescapeByte b) d).len.toNat ≤ 259 := by rw [decAppend_len_toNat (by omega)]; omega
  exact decInv_of_bounds (.inr rfl) hlen h.pktLen_le

theorem decFeed_keeps {d : DecUnit} (h : DecInv d) (b : Byte) : DecInv (decFeed Config.decBufMax b d).1 := by
  cases hstate : d.state with
  | idle =>
    rw [decFeed_of_idle hstate]
    exact decIdle_keeps h b
  | inPacket =>
    rw [decFeed_of_inPacket hstate]
    exact decInPacket_keeps h hstate b
  | inEscape =>
    rw [decFeed_of_inEscape hstate]
    exact decInEscape_keeps h hstate b
  | invalid => exact absurd hstate h.state_legal

/-! The whole block. -/

theorem specReset_reset : SpecReset State.reset := by
  constructor <;> rfl

/-- R115 after reset: every register the invariants speak of has a stated reset value. -/
theorem SpecReset.inv {s : State} (h : SpecReset s) : Inv s where
  dec := decInv_of_bounds (.inl h.dec_state) (by rw [h.dec_len]; decide)
    fun hvalid => by rw [h.pkt_valid] at hvalid; cases hvalid
  enc := encInv_of_rest (.inl h.enc_phase) h.enc_pend_valid (by rw [h.enc_len]; decide)

/-- Settles O50: the stated reset values are all that the invariants ask for. -/
theorem invariantsHoldAtReset : Obligations.InvariantsHoldAtReset := ⟨specReset_reset.inv, fun _ h => h.inv⟩

/-- Every operation keeps the invariants: the units it does not own are unchanged, and its own unit's operations keep its
invariant. -/
theorem exec_keeps_inv {i : Instr} {s t : State} (h : Inv s) (hexec : exec i s = .next t) : Inv t := by
  obtain ⟨hdec, henc⟩ := h
  cases i with
  | decByte b => cases hexec; exact ⟨decFeed_keeps hdec b, henc⟩
  | decReset => cases hexec; exact ⟨decInv_of_bounds (.inl rfl) (Nat.zero_le _) hdec.pktLen_le, henc⟩
  | encBegin c => cases hexec; exact ⟨hdec, encStartLoad_keeps henc c⟩
  | encPush b => cases hexec; exact ⟨hdec, encAppend_keeps henc b⟩
  | encGo => cases hexec; exact ⟨hdec, encStartSequence_keeps henc⟩
  | encNext => cases hexec; exact ⟨hdec, encProduce_keeps henc⟩
  | encAbort => cases hexec; exact ⟨hdec, encAbandon_keeps henc⟩
  | decState | decLen | encState | encLen | crcSeed _ | crcByte _ | crcRead | pktCmd | pktLen | pktByte _ | errExp | errRcv =>
    cases hexec; exact ⟨hdec, henc⟩

/-- Settles O49: an empty port and an illegal word change no register, `rst` establishes the invariants (O50), and every
operation keeps them (`exec_keeps_inv`). -/
theorem invariantsKeptByEveryStep : Obligations.InvariantsKeptByEveryStep := by
  intro s t h hstep
  match hp : s.pending with
  | [] => cases (step_of_empty hp).symm.trans hstep; exact h
  | .rst :: rest =>
    cases (step_of_rst hp).symm.trans hstep
    exact ⟨specReset_reset.inv.dec, specReset_reset.inv.enc⟩
  | .word w :: rest =>
    have hwaiting : Inv (s.setPending rest) := ⟨h.dec, h.enc⟩
    cases hd : decode w with
    | ok i => exact exec_keeps_inv hwaiting ((step_of_ok hp hd).symm.trans hstep)
    | error e =>
      cases (step_of_error hp hd).symm.trans hstep
      exact ⟨h.dec, h.enc⟩

end Sys2Proof.Machine
end

/-! LOAD and DRAIN (R84, R141 to R144, R150), and the loop through the block: what is loaded into the encoder, drained and fed
to the decoder is the packet (R117 with R150). -/

section
namespace Sys2Proof.Machine

/-! LOAD. -/

/-- The encoder with a packet being loaded: `p` is appended to its payload so far (R142). -/
def encLoad (p : List Byte) (e : EncUnit) : EncUnit :=
  { e with payload := writeFrom e.payload e.len.toNat p, len := e.len + BitVec.ofNat 9 p.length }

/-- R142 with room in the payload: the byte is appended, and the answer is the new length. -/
theorem encAppend_of_room {e : EncUnit} (h : e.phase = .loading) (hroom : e.len.toNat < 256) (b : Byte) :
    encAppend b e = (encLoad [b] e, okReply (e.len + 1#9)) := by
  rw [encAppend, if_pos h, if_neg hroom.ne]
  rfl

theorem encLoad_cons {e : EncUnit} (h : e.len.toNat < 256) (b : Byte) (p : List Byte) :
    encLoad p (encLoad [b] e) = encLoad (b :: p) e := by
  have hnext : (e.len + 1#9).toNat = e.len.toNat + 1 := by bv_omega
  have hlen : e.len + 1#9 + BitVec.ofNat 9 p.length = e.len + BitVec.ofNat 9 (p.length + 1) := by bv_omega
  simp only [encLoad, writeFrom, List.length_cons, List.length_nil, Nat.zero_add, hnext, hlen]

/-- The ENC_PUSH operations of a payload that fits append it, and answer OK with the length reached (R142). -/
theorem runOps_push (p : List Byte) (ops : List Instr) (s : State) (h : s.enc.phase = .loading)
    (hroom : s.enc.len.toNat + p.length ≤ 256) :
    runOps (p.map .encPush ++ ops) s = runOps ops { s with
      enc := encLoad p s.enc,
      responses := s.responses ++ (List.range' (s.enc.len.toNat + 1) p.length).map (responseOf 0) } := by
  induction p generalizing s with
  | nil => simp [encLoad, writeFrom]
  | cons b p ih =>
    rw [List.length_cons] at hroom
    have hnext : (s.enc.len + 1#9).toNat = s.enc.len.toNat + 1 := by bv_omega
    refine (runOps_cons_onEnc (exec_encPush b) _ s).trans ?_
    rw [encAppend_of_room h (by omega), responseWord_okReply _ le_rfl, hnext]
    have hlen : (encLoad [b] s.enc).len.toNat = s.enc.len.toNat + 1 := hnext
    refine (ih _ (by exact h) (by simp only [hlen]; omega)).trans ?_
    simp only [encLoad_cons (show s.enc.len.toNat < 256 by omega), hlen, List.length_cons, List.range'_succ,
      List.map_cons, List.append_assoc, List.singleton_append]

/-- The encoder with a packet loaded and its sequence started (R141 to R143). -/
def encReady (c : Byte) (p : List Byte) (e : EncUnit) : EncUnit :=
  { e with phase := .start, pendValid := false, cmd := c, len := BitVec.ofNat 9 p.length,
           payload := writeFrom e.payload 0 p, idx := 0#9, crc := CRC_INIT }

/-- LOAD (R84) from an idle encoder. -/
theorem runOps_load {c : Byte} {p : List Byte} {s : State} (hp : p.length ≤ 256) (hidle : s.enc.phase = .idle) :
    runOps (expandPseudo (.load c p)) s = .next { s with
      enc := encReady c p s.enc, pending := [],
      responses := s.responses ++
        (0x0000#16 :: ((List.range p.length).map (fun k => responseOf 0 (k + 1)) ++ [0x0000#16])) } := by
  have hlog : (List.range' 1 p.length).map (responseOf 0) = (List.range p.length).map (fun k => responseOf 0 (k + 1)) := by
    simp [List.range'_eq_map_range, Function.comp_def, Nat.add_comm]
  have hbegin : encStartLoad c s.enc = ({ s.enc with cmd := c, len := 0#9, phase := .loading }, plainReply .ok) := by
    rw [encStartLoad, if_pos hidle]
  rw [expandPseudo, runOps_cons_onEnc (exec_encBegin c), hbegin, runOps_push p [.encGo] _ rfl (by simpa using hp),
    runOps_cons_onEnc exec_encGo, runOps_nil, ← hlog]
  simp [encStartSequence, encLoad, encReady]

/-- A sequence just started owes the frame of its packet. -/
theorem bytesOwed_encReady {c : Byte} {p : List Byte} (hp : p.length ≤ 256) (e : EncUnit) :
    bytesOwed (encReady c p e) = frame c p := by
  have hloaded : loadedPayload (encReady c p e) = p := by
    have hlen : (BitVec.ofNat 9 p.length).toNat = p.length := by rw [BitVec.toNat_ofNat]; omega
    simp only [loadedPayload, encReady, hlen]
    exact take_writeFrom_zero p e.payload hp
  show DELIM :: ((frameContent c (loadedPayload (encReady c p e))).flatMap escaped ++ [DELIM]) = frame c p
  rw [hloaded, frame]

theorem encInv_encReady {c : Byte} {p : List Byte} (hp : p.length ≤ 256) (e : EncUnit) : EncInv (encReady c p e) :=
  encInv_of_start rfl rfl (by simp only [encReady, BitVec.toNat_ofNat]; omega) rfl rfl

/-! DRAIN. -/

/-- The machine after one ENC_NEXT of the DRAIN loop. -/
theorem runOps_encNext (s : State) :
    runOps [.encNext] s = .next { s with
      enc := (encProduce s.enc).1, pending := [], responses := s.responses ++ [responseWord (encProduce s.enc).2] } :=
  runOps_cons_onEnc exec_encNext [] s

/-- One turn of DRAIN that gets a byte. -/
theorem drain_of_byte {n : Nat} {s : State} {b : Byte} {e : EncUnit} {r : Drained} (h : encProduce s.enc = (e, okReply b))
    (hr : drain n { s with enc := e, pending := [], responses := s.responses ++ [responseWord (okReply b)] } = some r) :
    drain (n + 1) s = some { r with bytes := b :: r.bytes } := by
  have hcode : responseCode (responseWord (okReply b)) = codeBits .ok := responseCode_responseWord _
  have hbyte : (responseData (responseWord (okReply b))).setWidth 8 = b := by
    rw [responseData_responseWord]; simp [okReply, zext9]
  simp [drain, runOps_encNext, h, hr, lastResponse, hcode, hbyte]

/-- The turn of DRAIN that ends it: nothing is left to send. -/
theorem drain_of_idle {n : Nat} {s : State} (h : s.enc.phase = .idle) :
    drain (n + 1) s = some ⟨[], 0x6000#16, { s with pending := [], responses := s.responses ++ [0x6000#16] }⟩ := by
  have hproduce : encProduce s.enc = (s.enc, plainReply .seqEnd) := by simp only [encProduce, h]
  simp [drain, runOps_encNext, hproduce, lastResponse, show responseCode 0x6000#16 ≠ codeBits .ok by decide]

/-- What DRAIN answers when it sends everything `s` owes: it ends with END, in IDLE, and leaves the other units alone. -/
structure DrainsFrom (s : State) (r : Drained) : Prop where
  bytes : r.bytes = bytesOwed s.enc
  final : r.final = 0x6000#16
  phase : r.state.enc.phase = .idle
  dec : r.state.dec = s.dec
  crcAcc : r.state.crcAcc = s.crcAcc

/-- With a turn for each byte owed and one more, DRAIN sends all of them (R150). -/
theorem drain_sends {n : Nat} {s : State} (hinv : EncInv s.enc) (hphase : inSequence s.enc.phase = true ∨ s.enc.phase = .idle)
    (hturns : (bytesOwed s.enc).length < n) : ∃ r, drain n s = some r ∧ DrainsFrom s r := by
  induction n generalizing s with
  | zero => exact absurd hturns (Nat.not_lt_zero _)
  | succ n ih =>
    obtain hseq | hidle := hphase
    · obtain ⟨b, e, hproduce, howed, hinv', hphase'⟩ := encProduce_sends hinv hseq
      rw [howed, List.length_cons] at hturns
      obtain ⟨r, hr, hdrains⟩ := ih (s := { s with
        enc := e, pending := [], responses := s.responses ++ [responseWord (okReply b)] }) hinv' hphase' (by simp only; omega)
      exact ⟨_, drain_of_byte hproduce hr,
        { hdrains with bytes := (congrArg (b :: ·) hdrains.bytes).trans howed.symm }⟩
    · exact ⟨_, drain_of_idle hidle,
        { bytes := by simp only [bytesOwed, hidle], final := rfl, phase := hidle, dec := rfl, crcAcc := rfl }⟩

/-- R152: the frame of a packet is drained within 519 turns, its bytes and the END. -/
theorem drain_encReady {c : Byte} {p : List Byte} {s : State} (hp : p.length ≤ 256) {e : EncUnit}
    (h : s.enc = encReady c p e) : ∃ r, drain 519 s = some r ∧ DrainsFrom s r ∧ r.bytes = frame c p := by
  obtain ⟨-, -, hlength, -⟩ := frameShapeOnWire c p
  have howed : bytesOwed s.enc = frame c p := by rw [h, bytesOwed_encReady hp]
  have hturns : (bytesOwed s.enc).length < 519 := by rw [howed]; exact Nat.lt_succ_of_le (hlength hp)
  obtain ⟨r, hr, hdrains⟩ := drain_sends (by rw [h]; exact encInv_encReady hp e) (.inl (by rw [h]; rfl)) hturns
  exact ⟨r, hr, hdrains, hdrains.bytes.trans howed⟩

/-- Settles O40: LOAD and DRAIN give the frame (`drain_encReady`), and the decoder, which they leave alone, is delivered its
packet (O23). -/
theorem loopbackDeliversPacket : Obligations.LoopbackDeliversPacket := by
  intro s c p hp henc hdec
  obtain ⟨t, hload, hready, hkept⟩ : ∃ t, runOps (expandPseudo (.load c p)) s = .next t ∧
      t.enc = encReady c p s.enc ∧ t.dec = s.dec := ⟨_, runOps_load hp henc, rfl, rfl⟩
  obtain ⟨r, hr, hdrains, hbytes⟩ := drain_encReady hp hready
  have hidle : r.state.dec.state = .idle := by rw [hdrains.dec, hkept, hdec]
  obtain ⟨d, hfeed, -, hvalid, hcmd, hlen, hpayload, -⟩ := fedFrameDeliversPacket r.state c p hp (.inl hidle)
  rw [← hbytes] at hfeed
  exact ⟨t, r, _, hload, hr, hfeed, hvalid, hcmd, hlen, hpayload⟩

end Sys2Proof.Machine
end

/-! The words of the B-form and N-form operations at the port (R76 to R78). -/

section
namespace Sys2Proof.Machine

theorem step_presentWord_of_ok {w : Word} {i : Instr} (h : decode w = .ok i) (s : State) :
    step (presentWord w s) = exec i s := step_of_ok rfl h

/-- R78 and R195: an ill-formed word is answered ILLEGAL. -/
theorem step_presentWord_of_not_wf {op : BitVec 7} {arg : Nine} (h : (RawOp.mk op arg).wf = false) (s : State) :
    step (presentWord (commandWord op arg) s) = .next { s with responses := s.responses ++ [0xF000#16] } := by
  obtain ⟨e, he⟩ := decodeFields_error_of_not_wf h
  have hstep : step (presentWord (commandWord op arg) s) = .next (respondIllegal s) :=
    step_of_error rfl ((decode_commandWord op arg).trans he)
  rw [hstep, respondIllegal, State.respond, responseWord_illegal]

/-- Bits put into the argument field of a word are bits of its argument (R75). -/
theorem commandWord_or_setWidth (op : BitVec 7) (arg arg' : Nine) :
    commandWord op arg ||| arg'.setWidth 16 = commandWord op (arg ||| arg') := by
  have hzero : arg'.setWidth 16 = commandWord 0#7 arg' := by revert arg'; decide +kernel
  rw [hzero, commandWord, commandWord, commandWord, BitVec.or_append, BitVec.or_zero]

/-- An operation of the N form has the one word it encodes to. -/
theorem noneFormAt_encode {i : Instr} (h : formOfOp i.raw.op = some .none) : NoneFormAt (encode i) i := by
  have harg : i.raw.arg = 0#9 := by
    have hwf : i.raw.wf = true := (opcodeRow_of_instr i).1
    simpa [RawOp.wf, h, Form.argOk] using hwf
  refine ⟨step_presentWord_of_ok (decode_encode i), fun s arg hne => ?_⟩
  rw [encode_eq_commandWord_raw, harg, commandWord_or_setWidth, BitVec.zero_or]
  exact step_presentWord_of_not_wf ((not_wf_iff _ _).mpr (.inr (.inr ⟨by simp [h], by simp [h], hne⟩))) s

/-- An operation of the B form has the 256 words of its bytes. -/
theorem byteFormAt_commandWord {op : BitVec 7} {build : Byte → Instr} (hraw : ∀ b, (build b).raw = ⟨op, b.setWidth 9⟩)
    (h : formOfOp op = some .byte) : ByteFormAt (commandWord op 0#9) build := by
  have hbyte (b : Byte) : b.setWidth 16 = (b.setWidth 9).setWidth 16 := by revert b; decide +kernel
  refine ⟨fun s b => step_presentWord_of_ok ?_ s, fun s b => ?_⟩
  · rw [hbyte, commandWord_or_setWidth, BitVec.zero_or, decode_commandWord, decodeFields_eq_ok_iff, hraw]
  · rw [hbyte, show (0x0100#16 : Word) = (0x100#9).setWidth 16 from rfl, commandWord_or_setWidth, commandWord_or_setWidth,
      BitVec.zero_or]
    have hreserved : (0x100#9 ||| b.setWidth 9 : Nine).getLsbD 8 = true := by simp
    exact step_presentWord_of_not_wf ((not_wf_iff _ _).mpr (.inr (.inl ⟨h, hreserved⟩))) s

end Sys2Proof.Machine
end

/-! DEC_BYTE in each state and at each kind of byte (R100 to R111), DEC_RESET and the reads of the decoder's position (R112 to
R114): the rules of `decFeed`, at the port. -/

section
namespace Sys2Proof.Machine

/-- DEC_BYTE (R100) from what the byte does to the decoder. -/
theorem exec_decByte_of_decFeed {b : Byte} {s : State} {d : DecUnit} {r : Reply}
    (h : decFeed Config.decBufMax b s.dec = (d, r)) :
    exec (.decByte b) s = .next { s with dec := d, responses := s.responses ++ [responseWord r] } := by
  rw [exec_decByte, onDec_eq, h]

/-! The reply of DEC_BYTE (R82, R100). -/

/-- One of the six codes of R100, and data 0 unless the code is OK. -/
def IsDecReply (r : Reply) : Prop := (codeBits r.code).toNat ≤ 5 ∧ (r.code ≠ .ok → r.data = 0#9)

theorem isDecReply_plainReply {c : ResultCode} (h : (codeBits c).toNat ≤ 5) : IsDecReply (plainReply c) :=
  ⟨h, fun _ => rfl⟩

theorem isDecReply_okReply {w : Nat} (v : BitVec w) : IsDecReply (okReply v) := ⟨Nat.zero_le _, absurd rfl⟩

theorem decComplete_reply (d : DecUnit) : IsDecReply (decComplete d).2 := by
  unfold decComplete
  split
  · exact isDecReply_plainReply (by decide)
  split
  · exact isDecReply_plainReply (by decide)
  split
  · exact isDecReply_okReply _
  · exact isDecReply_plainReply (by decide)

theorem decInPacket_reply (cap : Nat) (b : Byte) (d : DecUnit) : IsDecReply (decInPacket cap b d).2 := by
  unfold decInPacket
  split
  · exact isDecReply_plainReply (by decide)
  split
  · exact isDecReply_plainReply (by decide)
  split
  · exact decComplete_reply d
  · exact isDecReply_plainReply (by decide)

theorem decIdle_reply (b : Byte) (d : DecUnit) : IsDecReply (decIdle b d).2 := by
  unfold decIdle
  split
  · exact isDecReply_plainReply (by decide)
  · exact isDecReply_plainReply (by decide)

theorem decFeed_reply (cap : Nat) (b : Byte) (d : DecUnit) : IsDecReply (decFeed cap b d).2 := by
  unfold decFeed
  split
  next => exact decIdle_reply b d
  next => exact decInPacket_reply cap b d
  next => exact isDecReply_plainReply (by decide)
  next => exact isDecReply_plainReply (by decide)

/-- Settles O9: the words by the B form of DEC_BYTE (`byteFormAt_commandWord`), the reply by `decFeed_reply`. -/
theorem decByteFeedsOneByte : Obligations.DecByteFeedsOneByte := by
  refine ⟨byteFormAt_commandWord (op := 0x01#7) (fun _ => rfl) rfl, fun b s => ?_⟩
  obtain ⟨hcode, hdata⟩ := decFeed_reply Config.decBufMax b s.dec
  have hexec := (exec_decByte b s).trans (onDec_eq _ s)
  rw [responseWord_eq] at hexec
  refine ⟨_, _, _, hexec, BitVec.isLt _, hcode, fun hne => ?_⟩
  have hnotOk : (decFeed Config.decBufMax b s.dec).2.code ≠ .ok := fun hok => hne (by rw [hok]; rfl)
  rw [hdata hnotOk]
  rfl

/-! The rules of R101 to R111, one by one. -/

/-- Settles O10, by the two rules of `decFeed` in IDLE. -/
theorem idleIgnoresAllButDelimiter : Obligations.IdleIgnoresAllButDelimiter := by
  intro b s hidle
  rw [← responseWord_notDone]
  constructor
  · rintro rfl
    exact exec_decByte_of_decFeed (decFeed_idle_delim hidle _)
  · intro hb
    exact exec_decByte_of_decFeed (decFeed_idle_noise hidle _ hb)

/-- Settles O11, by the rule of a full buffer. -/
theorem fullBufferAbortsFrame : Obligations.FullBufferAbortsFrame := by
  intro b s hstate hfull
  rw [← responseWord_tooMuchData]
  exact exec_decByte_of_decFeed (decFeed_full hstate hfull b)

/-- Settles O12, by the rule of ESCAPE. -/
theorem escapeByteEntersEscape : Obligations.EscapeByteEntersEscape := by
  intro s hstate hroom
  rw [← responseWord_notDone]
  exact exec_decByte_of_decFeed (decFeed_escape hstate hroom)

/-- What an append does to the buffer, element by element (R105, R106). -/
theorem decAppend_getElem? {d : DecUnit} (h : d.len.toNat < 259) (v : Byte) (k : Nat) :
    (decAppend v d).buf.cells[k]? = if k = d.len.toNat then some v else d.buf.cells[k]? := by
  rw [decAppend, writeAt_cells, List.getElem?_set, Bytes.length_cells]
  by_cases hk : k = d.len.toNat
  · rw [if_pos hk.symm, if_pos h, if_pos hk]
  · rw [if_neg (Ne.symm hk), if_neg hk]

theorem decAppend_len (d : DecUnit) (v : Byte) : (decAppend v d).len = BitVec.ofNat 9 (d.len.toNat + 1) := by
  rw [BitVec.ofNat_add, BitVec.ofNat_toNat, BitVec.setWidth_eq]; rfl

/-- Settles O13: the rule of a literal byte, and what the append does (`decAppend_getElem?`). -/
theorem literalByteIsAppended : Obligations.LiteralByteIsAppended := by
  intro b s hstate hroom hd he
  rw [← responseWord_notDone, ← decAppend_len s.dec b]
  exact ⟨_, exec_decByte_of_decFeed (decFeed_literal hstate hroom hd he), decAppend_getElem? hroom b⟩

/-- Settles O14: the same append as O13, of the byte that `unescapeByte` gives. -/
theorem byteAfterEscapeIsLiteral : Obligations.ByteAfterEscapeIsLiteral := by
  intro b s hstate hroom
  rw [← responseWord_notDone, ← decAppend_len s.dec (unescapeByte b)]
  exact ⟨_, exec_decByte_of_decFeed (decFeed_of_inEscape hstate Config.decBufMax b),
    decAppend_getElem? (by omega) (unescapeByte b)⟩

/-- Settles O15, by the recovery of R107. -/
theorem invalidStateRecovers : Obligations.InvalidStateRecovers := by
  intro b s hstate
  have hfeed : decFeed Config.decBufMax b s.dec = recoverIdle .badState s.dec := by simp only [decFeed, hstate, decInvalid]
  rw [← responseWord_badState]
  exact exec_decByte_of_decFeed hfeed

/-- Settles O16, by the rule of a delimiter at an empty buffer. -/
theorem emptyFrameIsNoise : Obligations.EmptyFrameIsNoise := by
  intro s hstate hlen
  rw [← responseWord_notDone]
  exact exec_decByte_of_decFeed (decFeed_delim_empty hstate (by decide) hlen)

/-- Settles O17: completion tests for one byte before it looks at a checksum. -/
theorem oneByteFrameIsTooSmall : Obligations.OneByteFrameIsTooSmall := by
  intro s hstate hlen
  have hfeed : decFeed Config.decBufMax DELIM s.dec = recoverIdle .tooSmall s.dec := by
    rw [decFeed_delim hstate (by rw [hlen]; decide), decComplete, if_neg (by rw [hlen]; decide), if_pos hlen]
  rw [← responseWord_tooSmall]
  exact exec_decByte_of_decFeed hfeed

/-- R111: a delimiter after a content whose last byte is not its checksum captures both checksums. -/
theorem decComplete_of_holds_mismatch {d : DecUnit} {c k : Byte} {p : List Byte} (h : DecHolds d (c :: p ++ [k]))
    (hcrc : crc8 (c :: p) CRC_INIT ≠ k) :
    decComplete d = ({ d with
      state := .idle, errValid := true, errExpected := crc8 (c :: p) CRC_INIT, errReceived := k },
      plainReply .checksumMismatch) := by
  have hlen : d.len.toNat = p.length + 2 := by simpa using h.len
  rw [decComplete, if_neg (by bv_omega), if_neg (by bv_omega), h.decExpected_eq, h.decReceived_eq, if_neg hcrc, decMismatch,
    h.decExpected_eq, h.decReceived_eq]
  rfl

/-- Settles O18: a content that ends in its own checksum is the content of a frame, and the delimiter hands it off
(`decComplete_of_holds_frameContent`). -/
theorem validFrameHandsOffPacket : Obligations.ValidFrameHandsOffPacket := by
  intro s c k p hstate hp hlen hbuf hcrc
  subst hcrc
  have hholds : DecHolds s.dec (frameContent c p) :=
    ⟨by rw [hlen, length_frameContent], by rw [length_frameContent]; exact hbuf⟩
  have hfeed := (decFeed_delim (cap := 259) hstate (by omega)).trans
    (decComplete_of_holds_frameContent hholds)
  rw [← responseWord_ok_ofNat (by omega)]
  exact ⟨_, exec_decByte_of_decFeed hfeed, by simpa using writeFrom_cells p s.dec.pktPayload 0 (by simpa using hp)⟩

/-- Settles O19: the delimiter captures what `decComplete_of_holds_mismatch` says. -/
theorem badChecksumIsCaptured : Obligations.BadChecksumIsCaptured := by
  intro s c k p hstate hp hlen hbuf hcrc
  have hholds : DecHolds s.dec (c :: p ++ [k]) := ⟨by simpa using hlen, by simpa using hbuf⟩
  have hfeed := (decFeed_delim (cap := 259) hstate (by omega)).trans
    (decComplete_of_holds_mismatch hholds hcrc)
  rw [← responseWord_checksumMismatch]
  exact exec_decByte_of_decFeed hfeed

/-! DEC_RESET, DEC_STATE and DEC_LEN (R112 to R114). -/

/-- Settles O20: the word by the N form (`noneFormAt_encode`), the effect by R112. -/
theorem decResetReturnsToIdle : Obligations.DecResetReturnsToIdle := by
  refine ⟨noneFormAt_encode (i := .decReset) rfl, fun s => ?_⟩
  rw [exec_decReset, onDec_eq, decRestart, responseWord_ok]

/-- Settles O21: a read answers OK with the register, and the state's four numbers are those of R22. -/
theorem decoderPositionReads : Obligations.DecoderPositionReads := by
  refine ⟨noneFormAt_encode (i := .decState) rfl, noneFormAt_encode (i := .decLen) rfl, fun s => ⟨?_, ?_⟩⟩
  · rw [exec_decState, onRead_eq]
    cases s.dec.state <;> rfl
  · rw [exec_decLen, onRead_eq, responseWord_okReply _ le_rfl]

end Sys2Proof.Machine
end

/-! LOAD, DRAIN and ENC_NEXT at the port (R144, R150, R152): the encoder's wire sequence (`encProduce_sends`) and the DRAIN loop
(`drain_encReady`) as the rules state them. -/

section
namespace Sys2Proof.Machine

/-- ENC_NEXT (R144) from what it does to the encoder. -/
theorem exec_encNext_of_encProduce {s : State} {e : EncUnit} {r : Reply} (h : encProduce s.enc = (e, r)) :
    exec .encNext s = .next { s with enc := e, responses := s.responses ++ [responseWord r] } := by
  rw [exec_encNext, onEnc_eq, h]

/-- Settles O38: ENC_NEXT sends the first byte owed (`encProduce_sends`), as an OK reply. -/
theorem encNextSendsFirstByteOwed : Obligations.EncNextSendsFirstByteOwed := by
  intro s hinv hseq
  obtain ⟨b, e, hproduce, howed, hinv', -⟩ := encProduce_sends hinv hseq
  refine ⟨b, e, ?_, howed, hinv'⟩
  rw [exec_encNext_of_encProduce hproduce, responseWord_okReply b (by decide)]

/-- Settles O39: LOAD starts the packet's sequence (`runOps_load`), and DRAIN sends all that it owes, the packet's frame
(`drain_encReady`). -/
theorem loadedPacketDrainsAsFrame : Obligations.LoadedPacketDrainsAsFrame := by
  intro s c p hp hidle
  obtain ⟨t, hload, hready, hlog, hdec, hcrc⟩ : ∃ t, runOps (expandPseudo (.load c p)) s = .next t ∧
      t.enc = encReady c p s.enc ∧
      t.responses = s.responses ++
        (0x0000#16 :: ((List.range p.length).map (fun k => responseOf 0 (k + 1)) ++ [0x0000#16])) ∧
      t.dec = s.dec ∧ t.crcAcc = s.crcAcc := ⟨_, runOps_load hp hidle, rfl, rfl, rfl, rfl⟩
  obtain ⟨r, hr, hdrains, hbytes⟩ := drain_encReady hp hready
  exact ⟨t, r, hload, hlog, hr, hbytes, hdrains.final, hdrains.phase, hdrains.dec.trans hdec,
    hdrains.crcAcc.trans hcrc⟩

end Sys2Proof.Machine
end

/-! Loading a packet, abandoning it and the reads of the encoder's position (R141 to R143, R147 to R149). -/

section
namespace Sys2Proof.Machine

/-- Settles O28: the words by the B form (`byteFormAt_commandWord`), the effect by the test of R141 on the phase. -/
theorem encBeginStartsLoading : Obligations.EncBeginStartsLoading := by
  refine ⟨byteFormAt_commandWord (op := 0x08#7) (fun _ => rfl) rfl, fun c s => ⟨fun hidle => ?_, fun hbusy => ?_⟩⟩
  · rw [exec_encBegin, onEnc_eq, encStartLoad, if_pos hidle, responseWord_ok]
  · rw [exec_encBegin, onEnc_eq, encStartLoad, if_neg hbusy, responseWord_seqError]

/-- What a write does to an array, element by element. -/
theorem writeAt_getElem? {n i : Nat} (h : i < n) (v : Bytes n) (b : Byte) (k : Nat) :
    (writeAt v i b).cells[k]? = if k = i then some b else v.cells[k]? := by
  rw [writeAt_cells]
  by_cases hk : k = i
  · rw [if_pos hk, hk, List.getElem?_set_self (by rwa [Bytes.length_cells])]
  · rw [if_neg hk, List.getElem?_set_ne (Ne.symm hk)]

/-- A nine-bit counter's next value. -/
theorem ofNat_toNat_add_one (n : Nine) : BitVec.ofNat 9 (n.toNat + 1) = n + 1#9 := by
  rw [BitVec.ofNat_add, BitVec.ofNat_toNat, BitVec.setWidth_eq]

/-- Settles O29: the words by the B form, the effect by the two tests of R142; with room the byte is appended
(`encAppend_of_room`) and the other elements are kept (`writeAt_getElem?`). -/
theorem encPushAppendsByte : Obligations.EncPushAppendsByte := by
  refine ⟨byteFormAt_commandWord (op := 0x09#7) (fun _ => rfl) rfl, fun b s => ⟨fun hphase => ?_, fun hphase hfull => ?_,
    fun hphase hroom => ⟨writeAt s.enc.payload s.enc.len.toNat b, ?_, writeAt_getElem? hroom _ b⟩⟩⟩
  · rw [exec_encPush, onEnc_eq, encAppend, if_neg hphase, responseWord_seqError]
  · rw [exec_encPush, onEnc_eq, encAppend, if_pos hphase, if_pos hfull, responseWord_full]
  · have hlen : (s.enc.len + 1#9).toNat = s.enc.len.toNat + 1 := by bv_omega
    rw [exec_encPush, onEnc_eq, encAppend_of_room hphase hroom, responseWord_okReply _ le_rfl, hlen, ofNat_toNat_add_one]
    rfl

/-- Settles O30: the word by the N form (`noneFormAt_encode`), the effect by the test of R143 on the phase. -/
theorem encGoStartsSequence : Obligations.EncGoStartsSequence := by
  refine ⟨noneFormAt_encode (i := .encGo) rfl, fun s => ⟨fun hloading => ?_, fun hother => ?_⟩⟩
  · rw [exec_encGo, onEnc_eq, encStartSequence, if_pos hloading, responseWord_ok]
    rfl
  · rw [exec_encGo, onEnc_eq, encStartSequence, if_neg hother, responseWord_seqError]

/-- Settles O36: the word by the N form, the effect by R147. -/
theorem encAbortFromEveryPhase : Obligations.EncAbortFromEveryPhase := by
  refine ⟨noneFormAt_encode (i := .encAbort) rfl, fun s => ?_⟩
  rw [exec_encAbort, onEnc_eq, encAbandon, responseWord_ok]

/-- Settles O37: a read answers OK with the register; the flag and the phase have the numbers of R32 and R148. -/
theorem encoderPositionReads : Obligations.EncoderPositionReads := by
  refine ⟨noneFormAt_encode (i := .encState) rfl, noneFormAt_encode (i := .encLen) rfl, fun s => ⟨?_, ?_⟩⟩
  · rw [exec_encState, onRead_eq]
    cases s.enc.pendValid <;> cases s.enc.phase <;> rfl
  · rw [exec_encLen, onRead_eq, responseWord_okReply _ le_rfl]

end Sys2Proof.Machine
end

/-! ENC_NEXT phase by phase (R144 to R146, R212): the phases without a byte, the raw delimiters, and the three phases that send
an item by the one rule of escaped emission (`exec_encNext_item`). -/

section
namespace Sys2Proof.Machine

/-! `encProduce` by phase. -/

theorem encProduce_idle {e : EncUnit} (h : e.phase = .idle) : encProduce e = (e, plainReply .seqEnd) := by
  simp only [encProduce, h]

theorem encProduce_loading {e : EncUnit} (h : e.phase = .loading) : encProduce e = (e, plainReply .seqError) := by
  simp only [encProduce, h]

theorem encProduce_invalid {e : EncUnit} (h : e.phase = .invalid) :
    encProduce e = ({ e with phase := .idle, pendValid := false }, plainReply .badState) := by
  simp only [encProduce, h]

theorem encProduce_start {e : EncUnit} (h : e.phase = .start) (hpend : e.pendValid = false) :
    encProduce e = ({ e with phase := .cmd }, okReply DELIM) := by
  simp only [encProduce, h, encOwedOr_of_no_pend hpend, encEmit]

theorem encProduce_ending {e : EncUnit} (h : e.phase = .ending) (hpend : e.pendValid = false) :
    encProduce e = ({ e with phase := .idle }, okReply DELIM) := by
  simp only [encProduce, h, encOwedOr_of_no_pend hpend, encEmit]

theorem encProduce_cmd {e : EncUnit} (h : e.phase = .cmd) : encProduce e = encOwedOr (fun e => encTake e.cmd e) e := by
  simp only [encProduce, h]

theorem encProduce_payload {e : EncUnit} (h : e.phase = .payload) :
    encProduce e = encOwedOr (fun e => encTake (readAt .encPayload e.payload e.idx.toNat) e) e := by
  simp only [encProduce, h]

theorem encProduce_crc {e : EncUnit} (h : e.phase = .crc) : encProduce e = encOwedOr (fun e => encEmitEscaped e.crc e) e := by
  simp only [encProduce, h]

/-- Settles O31: the word by the N form, the effect by the three phases of R144 that produce no byte. -/
theorem encNextWithoutSequence : Obligations.EncNextWithoutSequence := by
  refine ⟨noneFormAt_encode (i := .encNext) rfl, fun s => ⟨fun hidle => ?_, fun hloading => ?_, fun hinvalid => ?_⟩⟩
  · rw [exec_encNext_of_encProduce (encProduce_idle hidle), responseWord_seqEnd]
  · rw [exec_encNext_of_encProduce (encProduce_loading hloading), responseWord_seqError]
  · rw [exec_encNext_of_encProduce (encProduce_invalid hinvalid), responseWord_badState]

/-- Settles O32, by the two phases of R144 that send a raw delimiter. -/
theorem encNextSendsDelimiters : Obligations.EncNextSendsDelimiters := by
  intro s hpend
  have hdelim : responseWord (okReply DELIM) = 0x00C0#16 := by decide
  rw [← hdelim]
  exact ⟨fun hstart => exec_encNext_of_encProduce (encProduce_start hstart hpend),
    fun hending => exec_encNext_of_encProduce (encProduce_ending hending hpend)⟩

/-! Escaped emission (R145), one rule per kind of byte. -/

theorem encEmitEscaped_literal {v : Byte} (hd : v ≠ DELIM) (he : v ≠ ESCAPE) (e : EncUnit) :
    encEmitEscaped v e = (encAdvance e, okReply v) := by
  rw [encEmitEscaped, if_neg hd, if_neg he, encEmit]

theorem encEmitEscaped_delim (e : EncUnit) :
    encEmitEscaped DELIM e = ({ e with pend := ESC_DELIM, pendValid := true }, okReply ESCAPE) := by
  rw [encEmitEscaped, if_pos rfl, encEmit]

theorem encEmitEscaped_escape (e : EncUnit) :
    encEmitEscaped ESCAPE e = ({ e with pend := ESC_ESCAPE, pendValid := true }, okReply ESCAPE) := by
  rw [encEmitEscaped, if_neg (by decide), if_pos rfl, encEmit]

theorem encOwedOr_of_pend {e : EncUnit} (h : e.pendValid = true) (item : EncUnit → EncUnit × Reply) :
    encOwedOr item e = (encAdvance { e with pendValid := false }, okReply e.pend) := by
  rw [encOwedOr, if_pos h, encEmitPending, encEmit]

/-- R144 and R145 in a phase that sends item `v` and has come to `e` by taking it: the four cases of ENC_NEXT. -/
theorem exec_encNext_item {s : State} {item : EncUnit → EncUnit × Reply} {v : Byte} {e : EncUnit}
    (hproduce : encProduce s.enc = encOwedOr item s.enc) (hitem : item s.enc = encEmitEscaped v e) :
    (s.enc.pendValid = false → v ≠ DELIM → v ≠ ESCAPE → exec .encNext s = .next { s with
      enc := encAdvance e, responses := s.responses ++ [responseOf 0 v.toNat] }) ∧
    (s.enc.pendValid = false → v = DELIM → exec .encNext s = .next { s with
      enc := { e with pend := ESC_DELIM, pendValid := true }, responses := s.responses ++ [0x00DB#16] }) ∧
    (s.enc.pendValid = false → v = ESCAPE → exec .encNext s = .next { s with
      enc := { e with pend := ESC_ESCAPE, pendValid := true }, responses := s.responses ++ [0x00DB#16] }) ∧
    (s.enc.pendValid = true → exec .encNext s = .next { s with
      enc := encAdvance { s.enc with pendValid := false },
      responses := s.responses ++ [responseOf 0 s.enc.pend.toNat] }) := by
  have hown (hpend : s.enc.pendValid = false) : encProduce s.enc = encEmitEscaped v e := by
    rw [hproduce, encOwedOr_of_no_pend hpend, hitem]
  have hescape : responseWord (okReply ESCAPE) = 0x00DB#16 := by decide
  refine ⟨fun hpend hd he => ?_, fun hpend hd => ?_, fun hpend he => ?_, fun hpend => ?_⟩
  · rw [exec_encNext_of_encProduce ((hown hpend).trans (encEmitEscaped_literal hd he e)),
      responseWord_okReply v (by decide)]
  · subst hd
    rw [exec_encNext_of_encProduce ((hown hpend).trans (encEmitEscaped_delim e)), hescape]
  · subst he
    rw [exec_encNext_of_encProduce ((hown hpend).trans (encEmitEscaped_escape e)), hescape]
  · rw [exec_encNext_of_encProduce (hproduce.trans (encOwedOr_of_pend hpend item)),
      responseWord_okReply s.enc.pend (by decide)]

/-- Settles O33: the item is the command, taken into the checksum, and `advance()` leaves phase CMD (`encAdvance_cmd`). -/
theorem encNextSendsCommand : Obligations.EncNextSendsCommand := by
  intro s hphase
  have hcases := exec_encNext_item (encProduce_cmd hphase) rfl
  rwa [encAdvance_cmd (by exact hphase), encAdvance_cmd (by exact hphase)] at hcases

/-- Settles O34: the item is `enc_payload[enc_idx]`, taken into the checksum, and `advance()` moves `enc_idx`
(`encAdvance_payload`). -/
theorem encNextSendsPayloadByte : Obligations.EncNextSendsPayloadByte := by
  intro s v hphase hv
  have hcases := exec_encNext_item (encProduce_payload hphase) rfl
  rw [readAt_of_some _ _ hv, encAdvance_payload (by exact hphase), encAdvance_payload (by exact hphase)] at hcases
  rwa [ofNat_toNat_add_one]

/-- Settles O35: the item is the checksum, not taken into itself, and `advance()` leaves phase CRC (`encAdvance_crc`). -/
theorem encNextSendsChecksum : Obligations.EncNextSendsChecksum := by
  intro s hphase
  have hcases := exec_encNext_item (encProduce_crc hphase) rfl
  rwa [encAdvance_crc (by exact hphase), encAdvance_crc (by exact hphase)] at hcases

end Sys2Proof.Machine
end

/-! The checksum (R170 to R178): one update told apart by its seed and byte, a changed byte told by the checksum, and the
checksum unit's operations, one by one and in the sequence CRC. -/

section
namespace Sys2Proof.Machine

/-! The function. -/

/-- Two updates agree exactly where their seeds differ as their bytes do. -/
theorem crc8Update_eq_iff (c b c' b' : Byte) : crc8Update c b = crc8Update c' b' ↔ c ^^^ c' = b ^^^ b' := by
  rw [← BitVec.xor_eq_zero_iff, ← crc8Update_xor, crc8Update_eq_zero_iff]

/-- Different seeds give the same bytes different checksums. -/
theorem crc8_eq_iff_seed (bs : List Byte) (c c' : Byte) : crc8 bs c = crc8 bs c' ↔ c = c' := by
  induction bs generalizing c c' with
  | nil => rfl
  | cons b bs ih => rw [crc8_cons, crc8_cons, ih, crc8Update_eq_iff, BitVec.xor_self, BitVec.xor_eq_zero_iff]

/-- Changing one byte changes the checksum, so every error within one byte is detected (R177). -/
theorem crc8_modify_ne {f : Byte → Byte} (hf : ∀ v, f v ≠ v) {bs : List Byte} {i : Nat} (hi : i < bs.length) (c : Byte) :
    crc8 (bs.modify i f) c ≠ crc8 bs c := by
  induction bs generalizing i c with
  | nil => exact absurd hi (Nat.not_lt_zero i)
  | cons b bs ih =>
    cases i with
    | zero =>
      rw [List.modify_zero_cons, crc8_cons, crc8_cons, Ne, crc8_eq_iff_seed, crc8Update_eq_iff, BitVec.xor_self, eq_comm,
        BitVec.xor_eq_zero_iff]
      exact hf b
    | succ i =>
      rw [List.modify_succ_cons, crc8_cons, crc8_cons]
      exact ih (Nat.lt_of_succ_lt_succ hi) _

/-- Settles O44: the last update is zero exactly when its byte is the running checksum (`crc8Update_eq_zero_iff`). -/
theorem checksumResidueIsZero : Obligations.ChecksumResidueIsZero := by
  intro m k
  rw [crc8_append, crc8_cons, crc8_nil, crc8Update_eq_zero_iff]

/-- Settles O45: the update depends on `c xor b` alone (`crc8Update_eq_zero_seed`), and each of the 256 entries is the update
of its index from seed 0. -/
theorem checksumTableIsUpdate : Obligations.ChecksumTableIsUpdate := by
  have entry : ∀ x : Byte, crcTable[x.toNat]? = some (crc8Update 0#8 x) := by decide +kernel
  refine ⟨by decide +kernel, fun c b => ?_⟩
  rw [entry, ← crc8Update_eq_zero_seed]

/-! A flipped bit at the decoder (R177, R111). -/

/-- Flipping a bit changes the byte. -/
theorem xor_bit_ne {j : Nat} (hj : j < 8) (v : Byte) : v ^^^ (1#8 <<< j) ≠ v := by
  intro h
  have hbit := congrArg (BitVec.getLsbD · j) h
  simp [hj] at hbit

/-- Two bytes or more are a command, a payload and a last byte. -/
theorem exists_cons_append_singleton {bs : List Byte} (h : 2 ≤ bs.length) : ∃ c p k, bs = c :: p ++ [k] := by
  obtain rfl | ⟨init, k, rfl⟩ := List.eq_nil_or_concat' bs
  · simp at h
  · cases init with
    | nil => simp at h
    | cons c p => exact ⟨c, p, k, rfl⟩

/-- Settles O46: valid content has residue 0 (O44), a flipped bit changes the residue (`crc8_modify_ne`), so the flipped content
does not end in its own checksum, and the delimiter captures both values (O19). -/
theorem singleBitErrorIsReported : Obligations.SingleBitErrorIsReported := by
  intro s content i j hmin hmax hvalid hi hj hstate hlen flipped hbuf
  have hresidue := (checksumResidueIsZero content.dropLast _).mpr rfl
  rw [List.dropLast_append_getLast? _ hvalid] at hresidue
  have hflipped : crc8 flipped 0x00#8 ≠ 0x00#8 := fun hzero =>
    crc8_modify_ne (xor_bit_ne hj) hi 0x00#8 (hzero.trans hresidue.symm)
  have hlength : flipped.length = content.length := List.length_modify ..
  obtain ⟨c, p, k, hsplit⟩ := exists_cons_append_singleton (hlength ▸ hmin)
  have hcrc : crc8 (c :: p) 0x00#8 ≠ k := by
    rw [hsplit] at hflipped
    exact mt (checksumResidueIsZero (c :: p) k).mpr hflipped
  have hcontent : content.length = p.length + 2 := by rw [← hlength, hsplit]; simp
  rw [hcontent, hsplit] at hbuf
  rw [hsplit, List.dropLast_concat]
  exact ⟨k, List.getLast?_concat, hcrc, badChecksumIsCaptured s c k p hstate (by omega) (by omega) hbuf hcrc⟩

/-! The checksum unit's operations (R174 to R176) and the sequence CRC (R84). -/

/-- Settles O42: the words by the B and the N form (`byteFormAt_commandWord`, `noneFormAt_encode`), the effects by R174 to
R176. -/
theorem checksumUnitOperations : Obligations.ChecksumUnitOperations := by
  refine ⟨byteFormAt_commandWord (op := 0x10#7) (fun _ => rfl) rfl, byteFormAt_commandWord (op := 0x11#7) (fun _ => rfl) rfl,
    noneFormAt_encode (i := .crcRead) rfl, fun v s => ⟨?_, ?_, ?_⟩⟩
  · rw [exec_crcSeed, onCrc_eq, crcLoad, responseWord_ok]
  · rw [exec_crcByte, onCrc_eq, crcFold, responseWord_okReply _ (by decide)]
  · rw [exec_crcRead, onRead_eq, responseWord_okReply _ (by decide)]

/-- CRC_BYTE operations in sequence fold their bytes into the accumulator and write no other register. -/
theorem runOps_crcBytes (bytes : List Byte) (s : State) :
    ∃ log, runOps (bytes.map .crcByte) s = .next { s with
      crcAcc := crc8 bytes s.crcAcc, pending := [], responses := log } := by
  induction bytes generalizing s with
  | nil => exact ⟨s.responses, runOps_nil s⟩
  | cons b bytes ih =>
    have hfirst := (exec_crcByte b (s.offering (bytes.map .crcByte))).trans (onCrc_eq (crcFold b) _)
    obtain ⟨log, hrest⟩ := ih _
    exact ⟨log, (runOps_cons hfirst).trans hrest⟩

/-- Settles O43: the fold splits at any point (`crc8_append`), and CRC loads seed 0 and folds its bytes
(`runOps_crcBytes`). -/
theorem checksumIsIncremental : Obligations.ChecksumIsIncremental := by
  refine ⟨crc8_append, fun s bytes => ?_⟩
  have hseed := (exec_crcSeed 0x00#8 (s.offering (bytes.map .crcByte))).trans (onCrc_eq (crcLoad 0x00#8) _)
  obtain ⟨log, hrest⟩ := runOps_crcBytes bytes _
  exact ⟨_, (runOps_cons hseed).trans hrest, rfl, rfl, rfl⟩

end Sys2Proof.Machine
end

/-! Packet and diagnostic readout (R190 to R194): the word of an I-form operation, the gate of the valid flags, and PKT_BYTE's
range test behind it. -/

section
namespace Sys2Proof.Machine

/-- An operation of the I form has the 512 words of its indices. -/
theorem indexFormAt_commandWord {op : BitVec 7} {build : Nine → Instr} (hraw : ∀ k, (build k).raw = ⟨op, k⟩) :
    IndexFormAt (commandWord op 0#9) build := by
  refine fun s k => step_presentWord_of_ok ?_ s
  rw [commandWord_or_setWidth, BitVec.zero_or, decode_commandWord, decodeFields_eq_ok_iff, hraw]

/-- The gate of R190 to R194 while the valid flag is 0. -/
theorem gated_of_not_valid {valid : Bool} (h : valid = false) (r : Reply) : gated valid r = plainReply .noData := by
  rw [gated, h, if_neg Bool.false_ne_true]

/-- The gate of R190 to R194 while the valid flag is 1. -/
theorem gated_of_valid {valid : Bool} (h : valid = true) (r : Reply) : gated valid r = r := if_pos h

/-- R192, an index at or above `pkt_len`. -/
theorem payloadReply_of_le {k : Nine} {d : DecUnit} (h : d.pktLen.toNat ≤ k.toNat) :
    payloadReply k d = plainReply .range := if_pos h

/-- R192, an index below `pkt_len` whose element exists. -/
theorem payloadReply_of_lt {k : Nine} {d : DecUnit} {v : Byte} (h : k.toNat < d.pktLen.toNat)
    (hv : d.pktPayload.cells[k.toNat]? = some v) : payloadReply k d = okReply v := by
  rw [payloadReply, if_neg (by omega), readAt_of_some _ _ hv]

/-- Every index inside an array has an element. -/
theorem Bytes.exists_getElem?_of_lt {n i : Nat} (v : Bytes n) (h : i < n) : ∃ b, v.cells[i]? = some b :=
  ⟨_, List.getElem?_eq_getElem (v.length_cells.symm ▸ h)⟩

/-- Settles O47: the words by the N and the I form, NO_DATA by the gate on `pkt_valid`, and behind the gate the range test of
R192. -/
theorem packetReadout : Obligations.PacketReadout := by
  refine ⟨noneFormAt_encode (i := .pktCmd) rfl, noneFormAt_encode (i := .pktLen) rfl,
    indexFormAt_commandWord (op := 0x1A#7) (fun _ => rfl), fun s k hvalid => ⟨?_, ?_, ?_⟩,
    fun s k hvalid => ⟨?_, ?_, fun hout => ?_, fun hin v hv => ?_, fun hin hlen => ?_⟩⟩
  · rw [exec_pktCmd, onRead_eq, gated_of_not_valid hvalid, responseWord_noData]
  · rw [exec_pktLen, onRead_eq, gated_of_not_valid hvalid, responseWord_noData]
  · rw [exec_pktByte, onRead_eq, gated_of_not_valid hvalid, responseWord_noData]
  · rw [exec_pktCmd, onRead_eq, gated_of_valid hvalid, responseWord_okReply _ (by decide)]
  · rw [exec_pktLen, onRead_eq, gated_of_valid hvalid, responseWord_okReply _ le_rfl]
  · rw [exec_pktByte, onRead_eq, gated_of_valid hvalid, payloadReply_of_le hout, responseWord_range]
  · rw [exec_pktByte, onRead_eq, gated_of_valid hvalid, payloadReply_of_lt hin hv, responseWord_okReply _ (by decide)]
  · exact s.dec.pktPayload.exists_getElem?_of_lt (hin.trans_le hlen)

/-- Settles O48: the words by the N form, NO_DATA or the register by the gate on `err_valid`. -/
theorem errorReadout : Obligations.ErrorReadout := by
  refine ⟨noneFormAt_encode (i := .errExp) rfl, noneFormAt_encode (i := .errRcv) rfl, fun s hvalid => ⟨?_, ?_⟩,
    fun s hvalid => ⟨?_, ?_⟩⟩
  · rw [exec_errExp, onRead_eq, gated_of_not_valid hvalid, responseWord_noData]
  · rw [exec_errRcv, onRead_eq, gated_of_not_valid hvalid, responseWord_noData]
  · rw [exec_errExp, onRead_eq, gated_of_valid hvalid, responseWord_okReply _ (by decide)]
  · rw [exec_errRcv, onRead_eq, gated_of_valid hvalid, responseWord_okReply _ (by decide)]

end Sys2Proof.Machine
end

/-! Noise fed to an idle decoder (R101, R217). -/

section
namespace Sys2Proof.Machine

/-- Settles O22: the noise leaves the idle decoder as it is, NOT_DONE at every byte (`feedAll_idle_noise`), and FEED changes
nothing else (`runOps_feed_of_feedAll`). -/
theorem noiseInIdleIsHarmless : Obligations.NoiseInIdleIsHarmless := by
  intro s noise hidle hnoise
  have hfeed := feedAll_idle_noise hidle Config.decBufMax hnoise
  exact runOps_feed_of_feedAll hfeed (map_responseWord_notDone noise.length)

end Sys2Proof.Machine
end

/-! Reset and hazards (R230, R236): `rst`, and the delimiters that resynchronise the receiver. -/

section
namespace Sys2Proof.Machine

/-- `rst` gives the registers with a stated reset value that value (R230). -/
theorem specReset_resetRegisters (s : State) : SpecReset (resetRegisters s) := by
  constructor <;> rfl

/-- Settles O8: the model's reset state holds the stated values, and `rst` leads to it from any state. -/
theorem resetSetsStatedRegisters : Obligations.ResetSetsStatedRegisters :=
  ⟨specReset_reset, fun _ _ hp => ⟨_, step_of_rst hp, specReset_resetRegisters _, rfl, rfl⟩⟩

/-- Nothing of a frame is held: the next delimiter opens one (`decFeed_delim_of_rest`). -/
def DecAtRest (d : DecUnit) : Prop := d.state = .idle ∨ (d.state = .inPacket ∧ d.len = 0#9)

/-- Outside an escape pair one delimiter brings the decoder to rest (R101, R102, R104). -/
theorem decAtRest_of_delim {d : DecUnit} {cap : Nat} (hcap : 0 < cap) (h : d.state = .idle ∨ d.state = .inPacket) :
    DecAtRest (decFeed cap DELIM d).1 := by
  by_cases hrest : DecAtRest d
  · rw [decFeed_delim_of_rest hcap hrest]
    exact .inr ⟨rfl, rfl⟩
  · obtain hidle | hstate := h
    · exact absurd (.inl hidle) hrest
    · have hlen : d.len ≠ 0#9 := fun hlen => hrest (.inr ⟨hstate, hlen⟩)
      exact .inl (decFeed_delim_nonempty cap hstate hlen).1

/-- Whatever the decoder was doing, after one delimiter it is outside an escape pair. -/
theorem decFeed_delim_state {d : DecUnit} {cap : Nat} (hcap : 0 < cap) (h : d.state ≠ .invalid) :
    (decFeed cap DELIM d).1.state = .idle ∨ (decFeed cap DELIM d).1.state = .inPacket := by
  cases hstate : d.state with
  | idle => exact (decAtRest_of_delim hcap (.inl hstate)).imp_right And.left
  | inPacket => exact (decAtRest_of_delim hcap (.inr hstate)).imp_right And.left
  | inEscape =>
    rw [decFeed_of_inEscape hstate]
    exact .inr rfl
  | invalid => exact absurd hstate h

/-- What one DEC_BYTE leads to: the decoder fed that byte, and one response more. -/
theorem exec_decByte_next (b : Byte) (s : State) :
    ∃ t r, exec (.decByte b) s = .next t ∧ t.dec = (decFeed Config.decBufMax b s.dec).1 ∧ t.responses = s.responses ++ [r] :=
  ⟨_, _, (exec_decByte b s).trans (onDec_eq _ s), rfl, rfl⟩

/-- FEED is its first DEC_BYTE and the FEED of the other bytes. -/
theorem runOps_feed_of_exec {b : Byte} {bytes : List Byte} {s t : State} (h : exec (.decByte b) s = .next t) :
    runOps (expandPseudo (.feed (b :: bytes))) s = runOps (expandPseudo (.feed bytes)) t := by
  cases h
  exact runOps_cons_onDec (exec_decByte b) _ s

/-- Settles O25. Of two delimiters the first leaves any escape pair (`decFeed_delim_state`), the second brings the decoder to
rest (`decAtRest_of_delim`), and a frame fed to a decoder at rest is delivered (O23). A single one inside an escape pair is a
literal (O14), so the next frame meets a non-empty buffer and is lost (O24). -/
theorem twoDelimitersResynchronise : Obligations.TwoDelimitersResynchronise := by
  constructor
  · intro s c p hinv hp
    obtain ⟨u, r1, hu, hdecu, hlogu⟩ := exec_decByte_next 0xC0#8 s
    obtain ⟨v, r2, hv, hdecv, hlogv⟩ := exec_decByte_next 0xC0#8 u
    have hrest : DecAtRest v.dec := by
      rw [hdecv, hdecu]
      exact decAtRest_of_delim (by decide) (decFeed_delim_state (by decide) hinv.state_legal)
    obtain ⟨d, hfeed, hidle, hvalid, hcmd, hlen, hpayload, -⟩ := fedFrameDeliversPacket v c p hp hrest
    exact ⟨_, r1, r2, (runOps_feed_of_exec hu).trans ((runOps_feed_of_exec hv).trans hfeed), by simp [hlogv, hlogu],
      hidle, hvalid, hcmd, hlen, hpayload⟩
  · intro s u v c p hescape hroom hu hv
    obtain ⟨buf, hliteral, -⟩ := byteAfterEscapeIsLiteral 0xC0#8 s hescape hroom
    cases hu.symm.trans hliteral
    have hlen : BitVec.ofNat 9 (s.dec.len.toNat + 1) ≠ 0#9 := by bv_omega
    obtain ⟨hidle, r, hcode, hlog, hfeed⟩ := cutFrameLosesNextFrame _ v c p rfl hlen hv
    exact ⟨hidle, r, hcode, by simp [hlog], (runOps_feed_of_exec hu).trans (hfeed.trans (by simp))⟩

end Sys2Proof.Machine
end

/-! No observation depends on the unspecified reset contents (D29, I7): two machines that no agent can tell apart (`Same`) stay
so, response for response. Each unit's operations keep its part of the relation, in every state that meets the invariants. -/

section
namespace Sys2Proof.Machine

/-- Two results of an operation that no agent can tell apart: registers related by `R`, and the same reply. -/
def Alike {α : Type} (R : α → α → Prop) (r r' : α × Reply) : Prop := R r.1 r'.1 ∧ r.2 = r'.2

/-! Arrays that agree below a bound. -/

/-- A read below the bound. -/
theorem readAt_eq_of_take_eq {n i k : Nat} {v v' : Bytes n} (a : Config.ArrayName) (h : v.cells.take k = v'.cells.take k)
    (hi : i < k) : readAt a v i = readAt a v' i := by
  rw [readAt, readAt, ← List.getElem?_take_of_lt hi, h, List.getElem?_take_of_lt hi]

/-- The same byte written at the bound raises it. -/
theorem take_writeAt_eq {n k : Nat} {v v' : Bytes n} (h : v.cells.take k = v'.cells.take k) (hk : k < n) (b : Byte) :
    (writeAt v k b).cells.take (k + 1) = (writeAt v' k b).cells.take (k + 1) := by
  rw [take_writeAt v b hk, take_writeAt v' b hk, h]

/-! The decoder (R100 to R112). -/

theorem DecSame.refl (d : DecUnit) : DecSame d d :=
  ⟨rfl, rfl, fun _ => rfl, rfl, fun _ => ⟨rfl, rfl, rfl⟩, rfl, fun _ => ⟨rfl, rfl⟩⟩

/-- Inside a frame the two buffers hold the same content, so a change of state alone uncovers nothing. -/
theorem DecSame.setState {d d' : DecUnit} (h : DecSame d d') (hframe : d.state = .inPacket ∨ d.state = .inEscape)
    (st : DecState) : DecSame { d with state := st } { d' with state := st } :=
  { h with state := rfl, buf := fun _ => h.buf hframe }

/-- An empty buffer holds nothing to tell the decoders apart by. -/
theorem DecSame.setEmpty {d d' : DecUnit} (h : DecSame d d') (st : DecState) :
    DecSame { d with state := st, len := 0#9 } { d' with state := st, len := 0#9 } :=
  { h with state := rfl, len := rfl, buf := fun _ => rfl }

/-- In IDLE nothing of the buffer can be seen. -/
theorem DecSame.setIdle {d d' : DecUnit} (h : DecSame d d') : DecSame { d with state := .idle } { d' with state := .idle } :=
  { h with state := rfl, buf := fun hframe => by obtain hframe | hframe := hframe <;> cases hframe }

theorem recoverIdle_alike {d d' : DecUnit} (h : DecSame d d') (c : ResultCode) :
    Alike DecSame (recoverIdle c d) (recoverIdle c d') := ⟨h.setIdle, rfl⟩

/-- R105, R106: the same byte appended to the same content. -/
theorem DecSame.append {d d' : DecUnit} (h : DecSame d d') (hframe : d.state = .inPacket ∨ d.state = .inEscape)
    (hroom : d.len.toNat < 259) (v : Byte) : DecSame (decAppend v d) (decAppend v d') :=
  { h with
    len := congrArg (· + 1#9) h.len
    buf := fun _ => by
      rw [decAppend_len_toNat (by omega)]
      simp only [decAppend, ← h.len]
      exact take_writeAt_eq (h.buf hframe) hroom v }

/-- A content within the capacity is held. -/
theorem decHolds_take {d : DecUnit} (h : d.len.toNat ≤ 259) : DecHolds d (d.buf.cells.take d.len.toNat) where
  len := by simpa using h
  buf := by simp

theorem DecHolds.of_same {d d' : DecUnit} {content : List Byte} (hd : DecHolds d content) (h : DecSame d d')
    (hframe : d.state = .inPacket ∨ d.state = .inEscape) : DecHolds d' content where
  len := by rw [← h.len, hd.len]
  buf := by rw [← hd.len, ← h.buf hframe, hd.len, hd.buf]

/-- R110: the same packet handed off. -/
theorem DecSame.deliver {d d' : DecUnit} (h : DecSame d d') (c : Byte) {p : List Byte} (hp : p.length ≤ 256) :
    DecSame (decDeliver c p d) (decDeliver c p d') := by
  have hlen : (BitVec.ofNat 9 p.length).toNat = p.length := by rw [BitVec.toNat_ofNat]; omega
  have hpayload (v : Bytes 256) : (writeFrom v 0 p).cells.take (BitVec.ofNat 9 p.length).toNat = p := by
    rw [hlen, take_writeFrom_zero p v hp]
  exact { h.setIdle with
    pktValid := rfl
    pkt := fun _ => ⟨rfl, rfl, (hpayload _).trans (hpayload _).symm⟩ }

/-- R104 and R108 to R111: completion reads the content, and what it hands off or captures is that of the content. -/
theorem decComplete_alike {d d' : DecUnit} (h : DecSame d d') (hstate : d.state = .inPacket) (hroom : d.len.toNat < 259) :
    Alike DecSame (decComplete d) (decComplete d') := by
  by_cases h0 : d.len = 0#9
  · rw [decComplete, if_pos h0, decComplete, if_pos (h.len.symm.trans h0)]
    exact ⟨h, rfl⟩
  by_cases h1 : d.len = 1#9
  · rw [decComplete, if_neg h0, if_pos h1, decComplete, ← h.len, if_neg h0, if_pos h1]
    exact recoverIdle_alike h _
  have hholds := decHolds_take hroom.le
  obtain ⟨c, p, k, hcontent⟩ := exists_cons_append_singleton (bs := d.buf.cells.take d.len.toNat)
    (by rw [← hholds.len]; bv_omega)
  rw [hcontent] at hholds
  have hholds' := hholds.of_same h (.inl hstate)
  by_cases hcrc : crc8 (c :: p) CRC_INIT = k
  · subst hcrc
    have hlen : d.len.toNat = p.length + 2 := by simpa using hholds.len
    rw [decComplete_of_holds_frameContent hholds, decComplete_of_holds_frameContent hholds']
    exact ⟨h.deliver c (by omega), rfl⟩
  · rw [decComplete_of_holds_mismatch hholds hcrc, decComplete_of_holds_mismatch hholds' hcrc]
    exact ⟨{ h.setIdle with errValid := rfl, err := fun _ => ⟨rfl, rfl⟩ }, rfl⟩

theorem decFeed_alike_of_idle {d d' : DecUnit} (h : DecSame d d') (hidle : d.state = .idle) (cap : Nat) (b : Byte) :
    Alike DecSame (decFeed cap b d) (decFeed cap b d') := by
  have hidle' := h.state.symm.trans hidle
  by_cases hb : b = DELIM
  · rw [hb, decFeed_idle_delim hidle, decFeed_idle_delim hidle']
    exact ⟨h.setEmpty _, rfl⟩
  · rw [decFeed_idle_noise hidle cap hb, decFeed_idle_noise hidle' cap hb]
    exact ⟨h, rfl⟩

theorem decFeed_alike_of_inPacket {d d' : DecUnit} (h : DecSame d d') (hstate : d.state = .inPacket) (b : Byte) :
    Alike DecSame (decFeed 259 b d) (decFeed 259 b d') := by
  have hstate' := h.state.symm.trans hstate
  have hlen : d'.len.toNat = d.len.toNat := by rw [h.len]
  by_cases hfull : 259 ≤ d.len.toNat
  · rw [decFeed_full hstate hfull, decFeed_full hstate' (by omega)]
    exact recoverIdle_alike h _
  have hroom : d.len.toNat < 259 := by omega
  have hroom' : d'.len.toNat < 259 := by omega
  by_cases he : b = ESCAPE
  · rw [he, decFeed_escape hstate hroom, decFeed_escape hstate' hroom']
    exact ⟨h.setState (.inl hstate) _, rfl⟩
  by_cases hd : b = DELIM
  · rw [hd, decFeed_delim hstate hroom, decFeed_delim hstate' hroom']
    exact decComplete_alike h hstate hroom
  · rw [decFeed_literal hstate hroom hd he, decFeed_literal hstate' hroom' hd he]
    exact ⟨h.append (.inl hstate) hroom b, rfl⟩

/-- DEC_BYTE (R100). -/
theorem decFeed_alike {d d' : DecUnit} (hinv : DecInv d) (h : DecSame d d') (b : Byte) :
    Alike DecSame (decFeed Config.decBufMax b d) (decFeed Config.decBufMax b d') := by
  cases hstate : d.state with
  | idle => exact decFeed_alike_of_idle h hstate _ b
  | inPacket => exact decFeed_alike_of_inPacket h hstate b
  | inEscape =>
    have hroom := hinv.escape_room hstate
    rw [decFeed_of_inEscape hstate, decFeed_of_inEscape (h.state.symm.trans hstate)]
    exact ⟨(h.append (.inr hstate) (by omega) _).setState (.inr hstate) _, rfl⟩
  | invalid => exact absurd hstate hinv.state_legal

/-- R190 to R194: a gated reply rests on its register only while the flag is set. -/
theorem gated_congr {valid valid' : Bool} {r r' : Reply} (hvalid : valid = valid') (hr : valid = true → r = r') :
    gated valid r = gated valid' r' := by
  subst hvalid
  cases hv : valid with
  | false => rfl
  | true => exact hr hv

/-- R192: PKT_BYTE reads no element at or above `pkt_len`. -/
theorem DecSame.payloadReply_eq {d d' : DecUnit} (h : DecSame d d') (hvalid : d.pktValid = true) (k : Nine) :
    payloadReply k d = payloadReply k d' := by
  obtain ⟨-, hlen, hpayload⟩ := h.pkt hvalid
  rw [payloadReply, payloadReply, ← hlen]
  split
  next => rfl
  next hk => rw [readAt_eq_of_take_eq _ hpayload (by omega)]

/-! The encoder (R141 to R147). -/

theorem EncSame.refl (e : EncUnit) : EncSame e e :=
  ⟨rfl, rfl, rfl, fun _ _ => rfl, fun _ => ⟨rfl, rfl⟩, fun _ => rfl, fun _ => rfl⟩

/-- R147, and R213 item 5: at rest nothing of the packet can be seen. -/
theorem EncSame.setIdle {e e' : EncUnit} (h : EncSame e e') {b b' : Bool} (hb : b = b') :
    EncSame { e with phase := .idle, pendValid := b } { e' with phase := .idle, pendValid := b' } where
  phase := rfl
  pendValid := hb
  len := h.len
  pend hseq := by cases hseq
  loaded hseq := by obtain hseq | hseq := hseq <;> cases hseq
  idx hphase := by cases hphase
  crc hseq := by cases hseq

/-- R141. -/
theorem encStartLoad_alike {e e' : EncUnit} (h : EncSame e e') (c : Byte) :
    Alike EncSame (encStartLoad c e) (encStartLoad c e') := by
  rw [encStartLoad, encStartLoad, ← h.phase]
  split
  · exact ⟨{
      phase := rfl, pendValid := h.pendValid, len := rfl
      pend := fun hseq => by cases hseq
      loaded := fun _ => ⟨rfl, rfl⟩
      idx := fun hphase => by cases hphase
      crc := fun hseq => by cases hseq }, rfl⟩
  · exact ⟨h, rfl⟩

/-- R142: the same byte appended to the same payload. -/
theorem EncSame.load {e e' : EncUnit} (h : EncSame e e') (hloading : e.phase = .loading) (hroom : e.len.toNat < 256)
    (b : Byte) : EncSame (encLoad [b] e) (encLoad [b] e') := by
  obtain ⟨hcmd, hpayload⟩ := h.loaded (.inl hloading)
  have hnext : (e.len + 1#9).toNat = e.len.toNat + 1 := by bv_omega
  have htake : (writeAt e.payload e.len.toNat b).cells.take (e.len + 1#9).toNat
      = (writeAt e'.payload e'.len.toNat b).cells.take (e.len + 1#9).toNat := by
    rw [hnext, ← h.len]
    exact take_writeAt_eq hpayload hroom b
  exact { h with len := congrArg (· + 1#9) h.len, loaded := fun _ => ⟨hcmd, htake⟩ }

/-- ENC_PUSH (R142). -/
theorem encAppend_alike {e e' : EncUnit} (hinv : EncInv e) (h : EncSame e e') (b : Byte) :
    Alike EncSame (encAppend b e) (encAppend b e') := by
  by_cases hloading : e.phase = .loading
  · have hloading' := h.phase.symm.trans hloading
    by_cases hfull : e.len.toNat = 256
    · rw [encAppend, if_pos hloading, if_pos hfull, encAppend, if_pos hloading', if_pos (by rw [← h.len]; exact hfull)]
      exact ⟨h, rfl⟩
    · have hroom := lt_of_le_of_ne hinv.len_le hfull
      rw [encAppend_of_room hloading hroom, encAppend_of_room hloading' (by rw [← h.len]; exact hroom), h.len]
      exact ⟨h.load hloading hroom b, rfl⟩
  · rw [encAppend, if_neg hloading, encAppend, if_neg (by rw [← h.phase]; exact hloading)]
    exact ⟨h, rfl⟩

/-- R143: the sequence starts with the same packet, checksum and position. -/
theorem encStartSequence_alike {e e' : EncUnit} (h : EncSame e e') :
    Alike EncSame (encStartSequence e) (encStartSequence e') := by
  rw [encStartSequence, encStartSequence, ← h.phase]
  split
  next hloading =>
    exact ⟨{
      phase := rfl, pendValid := rfl, len := h.len
      pend := fun _ hpend => by cases hpend
      loaded := fun _ => h.loaded (.inl hloading)
      idx := fun _ => rfl
      crc := fun _ => rfl }, rfl⟩
  next => exact ⟨h, rfl⟩

/-! ENC_NEXT in a sequence (R144 to R146). -/

/-- R144: once an escape byte has gone out, `enc_pend` is dead. -/
theorem EncSame.clearPend {e e' : EncUnit} (h : EncSame e e') :
    EncSame { e with pendValid := false } { e' with pendValid := false } :=
  { h with pendValid := rfl, pend := fun _ hpend => by cases hpend }

theorem EncSame.setPend {e e' : EncUnit} (h : EncSame e e') (code : Byte) :
    EncSame { e with pend := code, pendValid := true } { e' with pend := code, pendValid := true } :=
  { h with pendValid := rfl, pend := fun _ _ => rfl }

theorem EncSame.setCrc {e e' : EncUnit} (h : EncSame e e') {c c' : Byte} (hc : c = c') :
    EncSame { e with crc := c } { e' with crc := c' } :=
  { h with crc := fun _ => hc }

/-- From one phase of a sequence to another; `enc_idx` is seen only in PAYLOAD. -/
theorem EncSame.setPhase {e e' : EncUnit} (h : EncSame e e') (hseq : inSequence e.phase = true) {ph ph' : EncPhase}
    (hph : ph = ph') {n n' : Nine} (hidx : ph = .payload → n = n') :
    EncSame { e with idx := n, phase := ph } { e' with idx := n', phase := ph' } where
  phase := hph
  pendValid := h.pendValid
  len := h.len
  pend _ := h.pend hseq
  loaded _ := h.loaded (.inr hseq)
  idx := hidx
  crc _ := h.crc hseq

/-- R146. -/
theorem EncSame.advance {e e' : EncUnit} (h : EncSame e e') : EncSame (encAdvance e) (encAdvance e') := by
  cases hphase : e.phase with
  | cmd =>
    rw [encAdvance_cmd hphase, encAdvance_cmd (h.phase.symm.trans hphase)]
    exact h.setPhase (congrArg inSequence hphase) (by rw [h.len]) (fun _ => rfl)
  | payload =>
    have hidx := h.idx hphase
    rw [encAdvance_payload hphase, encAdvance_payload (h.phase.symm.trans hphase)]
    exact h.setPhase (congrArg inSequence hphase) (by rw [hidx, h.len]) (fun _ => by rw [hidx])
  | crc =>
    rw [encAdvance_crc hphase, encAdvance_crc (h.phase.symm.trans hphase)]
    exact h.setPhase (congrArg inSequence hphase) rfl EncPhase.noConfusion
  | idle | loading | start | ending | invalid =>
    simpa only [encAdvance, hphase, ← h.phase] using h

/-- R145: the same item is emitted alike. -/
theorem encEmitEscaped_alike {e e' : EncUnit} (h : EncSame e e') {v v' : Byte} (hv : v = v') :
    Alike EncSame (encEmitEscaped v e) (encEmitEscaped v' e') := by
  subst hv
  by_cases hd : v = DELIM
  · rw [hd, encEmitEscaped_delim, encEmitEscaped_delim]
    exact ⟨h.setPend _, rfl⟩
  by_cases he : v = ESCAPE
  · rw [he, encEmitEscaped_escape, encEmitEscaped_escape]
    exact ⟨h.setPend _, rfl⟩
  · rw [encEmitEscaped_literal hd he, encEmitEscaped_literal hd he]
    exact ⟨h.advance, rfl⟩

/-- R144: the same item is taken into the same checksum. -/
theorem encTake_alike {e e' : EncUnit} (h : EncSame e e') (hseq : inSequence e.phase = true) {v v' : Byte} (hv : v = v') :
    Alike EncSame (encTake v e) (encTake v' e') :=
  encEmitEscaped_alike (h.setCrc (by rw [hv, h.crc hseq])) hv

/-- R144: a byte owed is the same byte, and without one the phase's own item decides. -/
theorem encOwedOr_alike {e e' : EncUnit} (h : EncSame e e') (hseq : inSequence e.phase = true)
    {item : EncUnit → EncUnit × Reply} (hitem : Alike EncSame (item e) (item e')) :
    Alike EncSame (encOwedOr item e) (encOwedOr item e') := by
  cases hpend : e.pendValid with
  | true =>
    rw [encOwedOr_of_pend hpend, encOwedOr_of_pend (h.pendValid.symm.trans hpend)]
    exact ⟨h.clearPend.advance, congrArg okReply (h.pend hseq hpend)⟩
  | false =>
    rw [encOwedOr_of_no_pend hpend, encOwedOr_of_no_pend (h.pendValid.symm.trans hpend)]
    exact hitem

/-- ENC_NEXT (R144). -/
theorem encProduce_alike {e e' : EncUnit} (hinv : EncInv e) (h : EncSame e e') :
    Alike EncSame (encProduce e) (encProduce e') := by
  cases hphase : e.phase with
  | idle =>
    rw [encProduce_idle hphase, encProduce_idle (h.phase.symm.trans hphase)]
    exact ⟨h, rfl⟩
  | loading =>
    rw [encProduce_loading hphase, encProduce_loading (h.phase.symm.trans hphase)]
    exact ⟨h, rfl⟩
  | invalid => exact absurd hphase hinv.phase_legal
  | start =>
    have hseq : inSequence e.phase = true := congrArg inSequence hphase
    simp only [encProduce, hphase, ← h.phase]
    exact encOwedOr_alike h hseq ⟨h.setPhase hseq rfl EncPhase.noConfusion, rfl⟩
  | cmd =>
    have hseq : inSequence e.phase = true := congrArg inSequence hphase
    rw [encProduce_cmd hphase, encProduce_cmd (h.phase.symm.trans hphase)]
    exact encOwedOr_alike h hseq (encTake_alike h hseq (h.loaded (.inr hseq)).1)
  | payload =>
    have hseq : inSequence e.phase = true := congrArg inSequence hphase
    have hitem : readAt .encPayload e.payload e.idx.toNat = readAt .encPayload e'.payload e'.idx.toNat := by
      rw [← h.idx hphase]
      exact readAt_eq_of_take_eq _ (h.loaded (.inr hseq)).2 (hinv.idx_lt hphase)
    rw [encProduce_payload hphase, encProduce_payload (h.phase.symm.trans hphase)]
    exact encOwedOr_alike h hseq (encTake_alike h hseq hitem)
  | crc =>
    have hseq : inSequence e.phase = true := congrArg inSequence hphase
    rw [encProduce_crc hphase, encProduce_crc (h.phase.symm.trans hphase)]
    exact encOwedOr_alike h hseq (encEmitEscaped_alike h (h.crc hseq))
  | ending =>
    have hseq : inSequence e.phase = true := congrArg inSequence hphase
    simp only [encProduce, hphase, ← h.phase]
    exact encOwedOr_alike h hseq ⟨h.setIdle h.pendValid, rfl⟩

/-! The whole block. -/

/-- Both outcomes are next states, and no agent can tell them apart. -/
def NextAlike (o o' : Host.Outcome State Fault Refusal) : Prop := ∃ s' t', o = .next s' ∧ o' = .next t' ∧ Same s' t'

theorem Same.setPending {s t : State} (h : Same s t) (p : List PortEvent) : Same (s.setPending p) (t.setPending p) :=
  { h with pending := rfl }

theorem Same.respond {s t : State} (h : Same s t) {r r' : Reply} (hr : r = r') : Same (s.respond r) (t.respond r') :=
  { h with responses := by rw [State.respond_responses, State.respond_responses, h.responses, hr] }

theorem onDec_alike {s t : State} (h : Same s t) {f : DecUnit → DecUnit × Reply} (hf : Alike DecSame (f s.dec) (f t.dec)) :
    NextAlike (onDec f s) (onDec f t) := by
  have hregs : Same (s.setDec (f s.dec).1) (t.setDec (f t.dec).1) := { h with dec := hf.1 }
  exact ⟨_, _, rfl, rfl, hregs.respond hf.2⟩

theorem onEnc_alike {s t : State} (h : Same s t) {f : EncUnit → EncUnit × Reply} (hf : Alike EncSame (f s.enc) (f t.enc)) :
    NextAlike (onEnc f s) (onEnc f t) := by
  have hregs : Same (s.setEnc (f s.enc).1) (t.setEnc (f t.enc).1) := { h with enc := hf.1 }
  exact ⟨_, _, rfl, rfl, hregs.respond hf.2⟩

theorem onCrc_alike {s t : State} (h : Same s t) (f : Byte → Byte × Reply) : NextAlike (onCrc f s) (onCrc f t) := by
  have hf : f s.crcAcc = f t.crcAcc := by rw [h.crcAcc]
  have hregs : Same (s.setCrcAcc (f s.crcAcc).1) (t.setCrcAcc (f t.crcAcc).1) := { h with crcAcc := congrArg Prod.fst hf }
  exact ⟨_, _, rfl, rfl, hregs.respond (congrArg Prod.snd hf)⟩

theorem onRead_alike {s t : State} (h : Same s t) {f : State → Reply} (hf : f s = f t) :
    NextAlike (onRead f s) (onRead f t) :=
  ⟨_, _, rfl, rfl, h.respond hf⟩

/-- Every operation does alike on machines alike. -/
theorem exec_alike {s t : State} (hinv : Inv s) (h : Same s t) (i : Instr) : NextAlike (exec i s) (exec i t) := by
  cases i with
  | decByte b => exact onDec_alike h (decFeed_alike hinv.dec h.dec b)
  | decReset => exact onDec_alike h ⟨h.dec.setEmpty _, rfl⟩
  | decState =>
    rw [exec_decState, exec_decState]
    exact onRead_alike h (by rw [h.dec.state])
  | decLen =>
    rw [exec_decLen, exec_decLen]
    exact onRead_alike h (by rw [h.dec.len])
  | encBegin c => exact onEnc_alike h (encStartLoad_alike h.enc c)
  | encPush b => exact onEnc_alike h (encAppend_alike hinv.enc h.enc b)
  | encGo => exact onEnc_alike h (encStartSequence_alike h.enc)
  | encNext => exact onEnc_alike h (encProduce_alike hinv.enc h.enc)
  | encAbort => exact onEnc_alike h ⟨h.enc.setIdle rfl, rfl⟩
  | encState =>
    rw [exec_encState, exec_encState]
    exact onRead_alike h (by rw [h.enc.phase, h.enc.pendValid])
  | encLen =>
    rw [exec_encLen, exec_encLen]
    exact onRead_alike h (by rw [h.enc.len])
  | crcSeed v => exact onCrc_alike h (crcLoad v)
  | crcByte b => exact onCrc_alike h (crcFold b)
  | crcRead =>
    rw [exec_crcRead, exec_crcRead]
    exact onRead_alike h (by rw [h.crcAcc])
  | pktCmd =>
    rw [exec_pktCmd, exec_pktCmd]
    exact onRead_alike h (gated_congr h.dec.pktValid fun hvalid => by rw [(h.dec.pkt hvalid).1])
  | pktLen =>
    rw [exec_pktLen, exec_pktLen]
    exact onRead_alike h (gated_congr h.dec.pktValid fun hvalid => by
      obtain ⟨-, hlen, -⟩ := h.dec.pkt hvalid
      rw [hlen])
  | pktByte k =>
    rw [exec_pktByte, exec_pktByte]
    exact onRead_alike h (gated_congr h.dec.pktValid fun hvalid => h.dec.payloadReply_eq hvalid k)
  | errExp =>
    rw [exec_errExp, exec_errExp]
    exact onRead_alike h (gated_congr h.dec.errValid fun hvalid => by rw [(h.dec.err hvalid).1])
  | errRcv =>
    rw [exec_errRcv, exec_errRcv]
    exact onRead_alike h (gated_congr h.dec.errValid fun hvalid => by rw [(h.dec.err hvalid).2])

/-- One step keeps two machines alike that no agent can tell apart (D29, I7, I8). -/
theorem step_alike {s t : State} (hinv : Inv s) (h : Same s t) : NextAlike (step s) (step t) := by
  match hp : s.pending with
  | [] =>
    exact ⟨s, t, step_of_empty hp, step_of_empty (h.pending.symm.trans hp), h⟩
  | .rst :: rest =>
    exact ⟨_, _, step_of_rst hp, step_of_rst (h.pending.symm.trans hp),
      { dec := .refl _, enc := .refl _, crcAcc := rfl, pending := rfl, responses := h.responses }⟩
  | .word w :: rest =>
    have hp' := h.pending.symm.trans hp
    cases hd : decode w with
    | ok i =>
      have hwaiting : Inv (s.setPending rest) := ⟨hinv.dec, hinv.enc⟩
      rw [step_of_ok hp hd, step_of_ok hp' hd]
      exact exec_alike hwaiting (h.setPending rest) i
    | error e =>
      exact ⟨_, _, step_of_error hp hd, step_of_error hp' hd, (h.setPending rest).respond rfl⟩

/-- Machines alike run alike, for any number of steps. -/
theorem run_alike {s t : State} (hinv : Inv s) (h : Same s t) (n : Nat) :
    NextAlike (Host.Core.run Sys2Proof.core n s) (Host.Core.run Sys2Proof.core n t) := by
  induction n generalizing s t with
  | zero => exact ⟨s, t, rfl, rfl, h⟩
  | succ n ih =>
    obtain ⟨s', t', hs, ht, hsame⟩ := step_alike hinv h
    rw [run_succ n hs, run_succ n ht]
    exact ih (invariantsKeptByEveryStep s s' hinv hs) hsame

/-- R230 and I7: the stated reset values are all an agent can see of the registers after reset. -/
theorem SpecReset.same {s t : State} (hs : SpecReset s) (ht : SpecReset t) (hpending : s.pending = t.pending)
    (hresponses : s.responses = t.responses) : Same s t where
  dec := {
    state := hs.dec_state.trans ht.dec_state.symm
    len := hs.dec_len.trans ht.dec_len.symm
    buf := fun _ => by rw [hs.dec_len]; rfl
    pktValid := hs.pkt_valid.trans ht.pkt_valid.symm
    pkt := fun hvalid => by rw [hs.pkt_valid] at hvalid; cases hvalid
    errValid := hs.err_valid.trans ht.err_valid.symm
    err := fun hvalid => by rw [hs.err_valid] at hvalid; cases hvalid }
  enc := {
    phase := hs.enc_phase.trans ht.enc_phase.symm
    pendValid := hs.enc_pend_valid.trans ht.enc_pend_valid.symm
    len := hs.enc_len.trans ht.enc_len.symm
    pend := fun hseq => by rw [hs.enc_phase] at hseq; cases hseq
    loaded := fun hseq => by rw [hs.enc_phase] at hseq; obtain hseq | hseq := hseq <;> cases hseq
    idx := fun hphase => by rw [hs.enc_phase] at hphase; cases hphase
    crc := fun hseq => by rw [hs.enc_phase] at hseq; cases hseq }
  crcAcc := hs.crc_acc.trans ht.crc_acc.symm
  pending := hpending
  responses := hresponses

/-- Settles O57: after reset the two machines are alike (`SpecReset.same`), and machines alike run alike (`run_alike`). -/
theorem resetContentsUnobservable : Obligations.ResetContentsUnobservable := by
  intro s t n hs ht hpending hresponses
  obtain ⟨s', t', hruns, hrunt, hsame⟩ := run_alike hs.inv (hs.same ht hpending hresponses) n
  exact ⟨s', t', hruns, hrunt, hsame.responses, hsame.pending⟩

end Sys2Proof.Machine
end

section
namespace Sys2Proof.Machine

/-- Settles O56: the two outcomes are alike (`step_alike`), and the first is the given one. -/
theorem stepKeepsMachinesAlike : Obligations.StepKeepsMachinesAlike := by
  intro s t s' hinv hsame hstep
  obtain ⟨u, t', hu, ht, halike⟩ := step_alike hinv hsame
  cases hu.symm.trans hstep
  exact ⟨t', ht, halike⟩

end Sys2Proof.Machine
end
